-- ==== Sys2Proof/Word.lean ====
section
/-! DEFINITION. The word types of the block (spec/00_scope.md R9, R11). All values are unsigned. -/

namespace Sys2Proof

/-- `u8`: a register value, a mask, a register address (R9 `REG_BITS`, `REGADDR_BITS`; R11). -/
abbrev Byte := BitVec 8

/-- `u32`: a command word (R11, R90). -/
abbrev CmdWord := BitVec 32

/-- `u16`: a response word (R11, R91). -/
abbrev RspWord := BitVec 16

/-- A 7-bit target address on the bus (R9 `ADDR_BITS`, R50). -/
abbrev BusAddr := BitVec 7

end Sys2Proof
end

