-- ==== Sys2Proof/Syntax.lean ====
section
/-! DEFINITION. The seventeen commands (spec/30_encoding.md R92, R95), one constructor per row of
spec/opcode_table.json, with the byte fields of the row's format. -/

namespace Sys2Proof

/-- A command. Each operand is the 8-bit field of the command word, used as is (R97 to R99). -/
inductive Instr where
  /-- Format I (R92, R93): SLA in F1, the flags FLG in F2, BUS in F3. -/
  | init (sla flg bus : Byte)
  /-- Format N. -/
  | cleanup
  /-- Format R: REG in F1. -/
  | valreg (reg : Byte)
  /-- Format R. -/
  | readreg (reg : Byte)
  /-- Format R. -/
  | getreg (reg : Byte)
  /-- Format RV: REG in F1, VAL in F2. -/
  | writereg (reg val : Byte)
  /-- Format RV: REG in F1, MASK in F2. -/
  | setones (reg mask : Byte)
  /-- Format RV: REG in F1, MASK in F2. -/
  | setzeros (reg mask : Byte)
  /-- Format M2: MASKA in F1, MASKB in F2. -/
  | setout (maskA maskB : Byte)
  /-- Format M2. -/
  | setin (maskA maskB : Byte)
  /-- Format V: VAL in F1. -/
  | wrporta (val : Byte)
  /-- Format V. -/
  | wrportb (val : Byte)
  /-- Format N. -/
  | rdporta
  /-- Format N. -/
  | rdportb
  /-- Format B: the bit identifier's code in F1 (R96). -/
  | isout (bit : Byte)
  /-- Format B. -/
  | setbit (bit : Byte)
  /-- Format B. -/
  | clrbit (bit : Byte)
  deriving DecidableEq, Repr

end Sys2Proof
end

