-- ==== Sys2Proof/WellFormed.lean ====
section
/-! DEFINITION. When a command has an encoding (spec/30_encoding.md R93, R94). Every byte is a legal value of
every operand but FLG: a wrong register address, mask or bit code is answered by status, never refused
(spec/00_scope.md R18, R96). -/

namespace Sys2Proof

/-- `FLG[7:3]` must be zero (R93, R94). -/
def flgReservedClear (flg : Byte) : Bool := flg &&& 0xF8 == 0

/-- The command can be written as a command word: its reserved bits are zero (R94). -/
def Instr.wellFormed : Instr → Bool
  | .init _ flg _ => flgReservedClear flg
  | .cleanup => true
  | .valreg _ => true
  | .readreg _ => true
  | .getreg _ => true
  | .writereg _ _ => true
  | .setones _ _ => true
  | .setzeros _ _ => true
  | .setout _ _ => true
  | .setin _ _ => true
  | .wrporta _ => true
  | .wrportb _ => true
  | .rdporta => true
  | .rdportb => true
  | .isout _ => true
  | .setbit _ => true
  | .clrbit _ => true

end Sys2Proof
end

