-- ==== Sys2Proof/Decode.lean ====
section
/-! DEFINITION. Decoding and encoding of command words (spec/30_encoding.md R90 to R105). The decoder is total on
the 2^32 words and depends on the word alone (R104, R105); a word that is no command is rejected by name. -/

namespace Sys2Proof

/-! ## Fields of a command word (R90) -/

/-- `OPC = cmd[31:24]`. -/
def opcField (w : CmdWord) : Byte := w.extractLsb' 24 8
/-- `F1 = cmd[23:16]`. -/
def f1Field (w : CmdWord) : Byte := w.extractLsb' 16 8
/-- `F2 = cmd[15:8]`. -/
def f2Field (w : CmdWord) : Byte := w.extractLsb' 8 8
/-- `F3 = cmd[7:0]`. -/
def f3Field (w : CmdWord) : Byte := w.extractLsb' 0 8

/-- The command word with these four fields, `{OPC, F1, F2, F3}` (R90). -/
def packWord (opc f1 f2 f3 : Byte) : CmdWord :=
  opc.setWidth 32 <<< 24 ||| f1.setWidth 32 <<< 16 ||| f2.setWidth 32 <<< 8 ||| f3.setWidth 32

/-! ## Formats and the opcode map -/

/-- The seven command formats (R92). -/
inductive Format where
  | n | r | rv | m2 | v | b | i
  deriving DecidableEq, Repr

/-- The reserved fields of the format are zero (R92 fields shown `0`, R93 `FLG[7:3]`, R94). -/
def reservedClear (fmt : Format) (f1 f2 f3 : Byte) : Bool :=
  match fmt with
  | .n => f1 == 0 && f2 == 0 && f3 == 0
  | .r => f2 == 0 && f3 == 0
  | .rv => f3 == 0
  | .m2 => f3 == 0
  | .v => f2 == 0 && f3 == 0
  | .b => f2 == 0 && f3 == 0
  | .i => flgReservedClear f2

/-- The opcode map (R95): an assigned opcode's format, and the command its three byte fields name. -/
def opcodeMap (opc f1 f2 f3 : Byte) : Option (Format × Instr) :=
  match opc with
  | 0x01 => some (.i, .init f1 f2 f3)
  | 0x02 => some (.n, .cleanup)
  | 0x10 => some (.r, .valreg f1)
  | 0x11 => some (.r, .readreg f1)
  | 0x12 => some (.r, .getreg f1)
  | 0x13 => some (.rv, .writereg f1 f2)
  | 0x14 => some (.rv, .setones f1 f2)
  | 0x15 => some (.rv, .setzeros f1 f2)
  | 0x20 => some (.m2, .setout f1 f2)
  | 0x21 => some (.m2, .setin f1 f2)
  | 0x22 => some (.v, .wrporta f1)
  | 0x23 => some (.v, .wrportb f1)
  | 0x24 => some (.n, .rdporta)
  | 0x25 => some (.n, .rdportb)
  | 0x30 => some (.b, .isout f1)
  | 0x31 => some (.b, .setbit f1)
  | 0x32 => some (.b, .clrbit f1)
  | _ => none

/-! ## The decoder -/

/-- Why a word is an illegal command (R101, R102). -/
inductive DecodeError where
  /-- `OPC` is not in the opcode map (R101). -/
  | unassignedOpcode (opc : Byte)
  /-- An assigned opcode with a nonzero reserved bit (R94, R102). -/
  | reservedBitSet (opc : Byte)
  deriving DecidableEq, Repr

/-- The command a word stands for, or why it is illegal (R95, R101, R102, R105). -/
def decode (w : CmdWord) : Except DecodeError Instr :=
  match opcodeMap (opcField w) (f1Field w) (f2Field w) (f3Field w) with
  | none => .error (.unassignedOpcode (opcField w))
  | some (fmt, i) =>
    if reservedClear fmt (f1Field w) (f2Field w) (f3Field w) then .ok i
    else .error (.reservedBitSet (opcField w))

/-- The command in a row's bits as spec/opcode_table.json numbers them: the word is read exactly as R90 numbers
it, bits above `nbits` are zero, and a value wider than one command word is no command. -/
def decodeTableWord (nbits w : Nat) : Option Instr :=
  if w % 2 ^ nbits < 2 ^ 32 then
    match decode (BitVec.ofNat 32 (w % 2 ^ nbits)) with
    | .ok i => some i
    | .error _ => none
  else none

/-! ## The encoder and the table's mask and match -/

/-- A command's opcode (R95). -/
def Instr.opcode : Instr → Byte
  | .init _ _ _ => 0x01
  | .cleanup => 0x02
  | .valreg _ => 0x10
  | .readreg _ => 0x11
  | .getreg _ => 0x12
  | .writereg _ _ => 0x13
  | .setones _ _ => 0x14
  | .setzeros _ _ => 0x15
  | .setout _ _ => 0x20
  | .setin _ _ => 0x21
  | .wrporta _ => 0x22
  | .wrportb _ => 0x23
  | .rdporta => 0x24
  | .rdportb => 0x25
  | .isout _ => 0x30
  | .setbit _ => 0x31
  | .clrbit _ => 0x32

/-- A command's word (R92, R93, R95): each operand in its byte, the other bytes zero. -/
def encode (i : Instr) : CmdWord :=
  match i with
  | .init sla flg bus => packWord i.opcode sla flg bus
  | .cleanup => packWord i.opcode 0 0 0
  | .valreg reg => packWord i.opcode reg 0 0
  | .readreg reg => packWord i.opcode reg 0 0
  | .getreg reg => packWord i.opcode reg 0 0
  | .writereg reg val => packWord i.opcode reg val 0
  | .setones reg mask => packWord i.opcode reg mask 0
  | .setzeros reg mask => packWord i.opcode reg mask 0
  | .setout maskA maskB => packWord i.opcode maskA maskB 0
  | .setin maskA maskB => packWord i.opcode maskA maskB 0
  | .wrporta val => packWord i.opcode val 0 0
  | .wrportb val => packWord i.opcode val 0 0
  | .rdporta => packWord i.opcode 0 0 0
  | .rdportb => packWord i.opcode 0 0 0
  | .isout bit => packWord i.opcode bit 0 0
  | .setbit bit => packWord i.opcode bit 0 0
  | .clrbit bit => packWord i.opcode bit 0 0

/-- A command's format (R92). -/
def Instr.format : Instr → Format
  | .init _ _ _ => .i
  | .cleanup => .n
  | .valreg _ => .r
  | .readreg _ => .r
  | .getreg _ => .r
  | .writereg _ _ => .rv
  | .setones _ _ => .rv
  | .setzeros _ _ => .rv
  | .setout _ _ => .m2
  | .setin _ _ => .m2
  | .wrporta _ => .v
  | .wrportb _ => .v
  | .rdporta => .n
  | .rdportb => .n
  | .isout _ => .b
  | .setbit _ => .b
  | .clrbit _ => .b

/-- `mask(X)` of R95: 0xFF000000 plus the reserved bits of the format. -/
def formatMask : Format → CmdWord
  | .n => 0xFFFFFFFF
  | .r => 0xFF00FFFF
  | .rv => 0xFF0000FF
  | .m2 => 0xFF0000FF
  | .v => 0xFF00FFFF
  | .b => 0xFF00FFFF
  | .i => 0xFF00F800

/-- `match(X) = OPC(X) << 24` of R95. -/
def Instr.matchWord (i : Instr) : CmdWord := i.opcode.setWidth 32 <<< 24

end Sys2Proof
end

