-- ==== Sys2Proof/Config.lean ====
section
/-! DEFINITION. What the spec leaves to the implementation and the environment (spec/00_scope.md R9,
spec/93_implementation_defined.md): the ports, the draws of the Environment, and the free values. -/

namespace Sys2Proof

/-- A port of the target (R9 `PORTS`, R31). -/
inductive Port where
  | a | b
  deriving DecidableEq, Repr, Inhabited

/-- One whole transaction of another accessor on the Target, completed `ok` (spec/10_state.md R42). -/
inductive OtherTx where
  /-- Read Byte Data. -/
  | read (addr : Byte)
  /-- Write Byte Data. -/
  | write (addr val : Byte)
  deriving DecidableEq, Repr, Inhabited

/-- How a data transaction completes (spec/20_memory.md R68, R69). -/
inductive TxOutcome where
  /-- Completes `ok`. -/
  | ok
  /-- Fails, because the n-th ACK the framing expects (0, 1 or 2) was a NACK (R68). -/
  | nack (at_ : Fin 3)
  /-- Fails for another reason: the "no such transaction" sentinel, a negative status (R69). -/
  | fail
  /-- Never completes (R29, R69). -/
  | hang
  deriving DecidableEq, Repr, Inhabited

/-- What the Environment draws for one consulted operation. Each operation uses the fields its own rule names;
the rest of the draw is not looked at. -/
structure Draw where
  /-- Other accessors' transactions between the Engine's previous transaction and this one (R42). -/
  before : List OtherTx
  /-- Completion of a data transaction to `TARGET_ADDR`; `ok` under `BusReliable` (R69). -/
  outcome : TxOutcome
  /-- Completion of a data transaction to another address (R69). -/
  outcomeElsewhere : TxOutcome
  /-- A Target that comes up after a reset answers from this data transaction to it on (R243, log entry 5). -/
  answers : Bool
  /-- The byte an `ok` read returns where no Target answers (R69). -/
  byte : Byte
  /-- `PIN[p]` at a GPIO read of port p (R36). -/
  pins : Byte
  /-- Output pins that read back the opposite of their latch bit at a GPIO read; 0 under `NoPinContention` (R35). -/
  contention : Byte
  /-- A write that fails has updated the register all the same (R70). -/
  wrote : Bool
  /-- Completion of BIND of a legal address; `ok` under `BusReliable` (R81). -/
  bind : Bool
  /-- Completion of FUNCS (R80) or CLOSE (R82), or `HookOK` (R125). -/
  ctrl : Bool
  deriving DecidableEq, Repr, Inhabited

/-- The capability flags of a bus (R80). -/
structure Caps where
  readByteData : Bool
  writeByteData : Bool
  deriving DecidableEq, Repr, Inhabited

/-- The parameters of a run (R9). No step changes them. A function of the 8-bit bus selector is held as the list
of selectors at which it is false. -/
structure Params where
  /-- `TARGET_ADDR`, the address the Target answers at; OPEN (R9, R69). -/
  targetAddr : BusAddr
  /-- The buses for which `OpenOK(bus)` does not hold (R79). -/
  openFails : List Byte
  /-- The buses whose `Caps(bus).readByteData` is false (R80). -/
  noReadByte : List Byte
  /-- The buses whose `Caps(bus).writeByteData` is false (R80). -/
  noWriteByte : List Byte
  /-- The zero-mask test precedes the session and address checks (R148). -/
  zeroMaskFirst : Bool
  /-- Port B's direction mask is the original code's comparison (R193). -/
  isOutBTypoCompat : Bool
  deriving DecidableEq, Repr, Inhabited

/-! ## Free values

Constants with no body: no proof can see what they are (log entry 2). -/

/-- The Environment's draw number n, for the draws `State.draws` does not list. -/
opaque Config.freeDraw : Nat → Draw

/-- `TARGET_ADDR` at reset. -/
opaque Config.targetAddr : BusAddr

/-- The buses that cannot be opened, at reset. -/
opaque Config.openFails : List Byte

/-- The buses without Read Byte Data, at reset. -/
opaque Config.noReadByte : List Byte

/-- The buses without Write Byte Data, at reset. -/
opaque Config.noWriteByte : List Byte

end Sys2Proof
end

