-- ==== Sys2Proof/Machine/State.lean ====
section
/-! DEFINITION. The state of the machine: the Engine's session and sequencing state, the Target's registers, the
parameters of the run, the outside world's coming moves and draws, and what the outside world has seen
(spec/10_state.md). All of it is plain data. -/

namespace Sys2Proof.Machine

open Sys2Proof

/-! ## The Engine -/

/-- The Engine's register layout (R21, R24). -/
inductive Layout where
  | none | bank0 | bank1
  deriving DecidableEq, Repr, Inhabited

/-- The session record `S` (R21). -/
structure Session where
  /-- `S.init` (R22). -/
  init : Bool
  /-- `S.bus` (R26). -/
  bus : Byte
  /-- `S.pathOwned` (R26). -/
  pathOwned : Bool
  /-- `S.slave` (R25). -/
  slave : BusAddr
  /-- `S.handleOpen` (R23). -/
  handleOpen : Bool
  /-- `S.layout` (R24). -/
  layout : Layout
  /-- `S.hookRegistered` (R27). -/
  hookRegistered : Bool
  deriving DecidableEq, Repr, Inhabited

/-- An operation the Engine asks of the Transport: a control operation (R78) or a data transaction (R66, R67). -/
inductive BusOp where
  /-- `OPEN(bus)` (R79). -/
  | openBus (bus : Byte)
  /-- `FUNCS()` (R80). -/
  | funcs
  /-- `BIND(addr)` (R81). -/
  | bind (addr : Byte)
  /-- `CLOSE()` (R82). -/
  | close
  /-- `MemRead(addr, 1)` (R66). -/
  | read (addr : Byte)
  /-- `MemWrite(addr, 1, v)` (R67). -/
  | write (addr val : Byte)
  deriving DecidableEq, Repr, Inhabited

/-- What a completed operation tells the Engine (R12, R78, R80). -/
inductive TxResult where
  /-- `ok`, no value. -/
  | ok
  /-- `ok(v)` of a read. -/
  | byte (v : Byte)
  /-- `ok(c)` of FUNCS. -/
  | caps (c : Caps)
  /-- `fail`. -/
  | fail
  deriving DecidableEq, Repr, Inhabited

/-- The sequencing state `S.phase` (R28). -/
inductive Phase where
  /-- Accepts a command. -/
  | idle
  /-- Executes command word `cmd`; `results` are the completed operations' results, oldest first, so that the k of
  `BUSY(cmd, k)` is their number and the byte a read-modify-write holds (R87) is among them. k is at most 5 on success
  paths (R258); INIT with ALT whose IOCON write fails reaches 6, its CLOSE included (R120, log entry 17). -/
  | busy (cmd : CmdWord) (results : List TxResult)
  /-- Waits for ever for a transaction that never completes. -/
  | hung
  deriving DecidableEq, Repr, Inhabited

/-! ## The Target -/

/-- Whether the Target takes part in transactions (R240(c), R243). -/
inductive Availability where
  /-- The reset line is low: the Target answers no transaction. -/
  | heldInReset
  /-- After power-on or the end of a reset pulse, and before the Target "answers again" (R243): it answers none yet.
  How long that lasts is the Environment's choice, because no recovery time may be assumed (N9, log entry 5). -/
  | comingUp
  /-- The Target answers. -/
  | answering
  deriving DecidableEq, Repr, Inhabited

/-- The Target's storage registers (R31) and whether it answers. -/
structure Target where
  /-- `T.IODIRA` (R33). -/
  iodirA : Byte
  /-- `T.IODIRB` (R33). -/
  iodirB : Byte
  /-- `T.OLATA` (R34). -/
  olatA : Byte
  /-- `T.OLATB` (R34). -/
  olatB : Byte
  /-- `T.IOCON` (R38). -/
  iocon : Byte
  /-- Held in reset, coming up after it, or answering (R240(c), R243). -/
  availability : Availability
  deriving DecidableEq, Repr, Inhabited

/-! ## The outside world -/

/-- A move of the Host or of the Environment (R4, R18). -/
inductive Event where
  /-- The Host submits a command word and waits; the Engine runs it to its end. Other agents act only through
  the draws. -/
  | submit (cmd : CmdWord)
  /-- The Host submits a command word and the Engine goes to `BUSY(cmd, 0)` (R29): the same command, one
  operation a step, so that other moves can stand between its operations. -/
  | start (cmd : CmdWord)
  /-- The Engine's next move of the command it executes (R29). -/
  | proceed
  /-- The Host process exits (R132). -/
  | exit
  /-- The block comes up (R240(a), R241). -/
  | engineReset
  /-- The Target is powered on (R240(b), R242). -/
  | targetPowerOn
  /-- The Host drives the Target's reset line low (R240(c)). -/
  | resetLineLow
  /-- The Host drives the Target's reset line high (R240(c)). -/
  | resetLineHigh
  /-- The Target, coming up after a reset, answers again (R243, log entry 5). -/
  | targetAnswersAgain
  /-- Another accessor performs a whole transaction on the Target (R42). -/
  | accessor (tx : OtherTx)
  deriving DecidableEq, Repr, Inhabited

/-- One entry of the record of what happened on the bus. -/
inductive BusEvent where
  /-- A control operation and its result (R78). -/
  | control (op : BusOp) (r : TxResult)
  /-- A data transaction of the Engine to address `slave`, how it completed, and the byte an `ok` read returned. -/
  | transfer (slave : BusAddr) (op : BusOp) (outcome : TxOutcome) (got : Option Byte)
  /-- A transaction of another accessor. -/
  | accessor (tx : OtherTx)
  deriving DecidableEq, Repr, Inhabited

/-! ## The whole state -/

/-- The machine's state. -/
structure State where
  /-- The session record `S` (R21). -/
  session : Session
  /-- `S.phase` (R28). -/
  phase : Phase
  /-- The Host process has exited: the Engine accepts no further command (R132; after an exit without
  the hook DEDUCED, log entry 8). -/
  exited : Bool
  /-- The Target's registers `T` (R31). -/
  target : Target
  /-- The parameters of the run (R9). -/
  par : Params
  /-- The coming moves of the Host and the Environment, next first. -/
  agenda : List Event
  /-- The Environment's coming draws, next first; after the last one the draws are `Config.freeDraw`. -/
  draws : List Draw
  /-- How many draws have been used. -/
  drawn : Nat
  /-- The response words emitted, oldest first (R91). -/
  responses : List RspWord
  /-- The bus operations so far, oldest first. -/
  log : List BusEvent
  deriving DecidableEq, Repr, Inhabited

/-! ## Why a step stops -/

/-- The model-level faults (R223 (b)). -/
inductive Fault where
  /-- A transaction that the Target answers has an address outside the modelled decode (R62). Raised by the data
  transactions of every command and by other accessors' transactions. Safe: the model stops where the chip goes on. -/
  | unmodelledTargetRegister (addr : Byte)
  deriving DecidableEq, Repr

/-- The moves the model has no move for. -/
inductive Refusal where
  /-- An instruction that has no meaning yet; raised by `exec` alone. Safe: the model stops. -/
  | notModelled (mnemonic : String)
  /-- The Host submits a command while the Engine is BUSY or HUNG (R18, U16); raised by `step`. Safe: the spec gives
  the Host no such move. -/
  | submitNotIdle
  /-- The Host process exits while the Engine is BUSY or HUNG (R132, U15), or a second time; raised by `step`. Safe:
  the spec gives it no move. -/
  | exitNotIdle
  /-- A command after the Host process has exited (R132; without the hook DEDUCED, log entry 8); raised by `step`. Safe:
  the model stops. -/
  | submitAfterExit
  deriving DecidableEq, Repr

/-! ## Reset -/

/-- The session record after Engine reset (R21, R241). `bus` and `slave` have no reset value in the spec and are not
read while `init` is false: DESIGN CHOICE 0, log entry 3. -/
def Session.reset : Session where
  init := false
  bus := 0
  pathOwned := false
  slave := 0
  handleOpen := false
  layout := .none
  hookRegistered := false

/-- The Target after power-on or hardware reset (R32, R38, R242), out of reset and answering (the boot condition of
R244 (1); DESIGN CHOICE, log entry 5). IODIRA and the bank are the source's values; IODIRB, OLATA, OLATB and IOCON
bits 6..0 are the spec's from general knowledge (G7), log entry 4. -/
def Target.reset : Target where
  iodirA := 0xFF
  iodirB := 0xFF
  olatA := 0x00
  olatB := 0x00
  iocon := 0x00
  availability := .answering

/-- The parameters at reset: the spec's defaults for the two options, free constants for what it leaves OPEN (R9),
log entry 2. -/
def Params.reset : Params where
  targetAddr := Config.targetAddr
  openFails := Config.openFails
  noReadByte := Config.noReadByte
  noWriteByte := Config.noWriteByte
  zeroMaskFirst := true
  isOutBTypoCompat := false

/-- The machine right after reset of Engine and Target (R241, R242): nothing submitted, nothing drawn, nothing seen. -/
def State.reset : State where
  session := Session.reset
  phase := .idle
  exited := false
  target := Target.reset
  par := Params.reset
  agenda := []
  draws := []
  drawn := 0
  responses := []
  log := []

end Sys2Proof.Machine
end

