-- ==== Sys2Proof/Machine/Flags.lean ====
section
/-! DEFINITION. The block's only flags: the STATUS byte and the Boolean DATA of a response
(spec/10_state.md R30, spec/30_encoding.md R91, R106, R113). -/

namespace Sys2Proof.Machine

open Sys2Proof

/-- The status of a response (R106). -/
inductive Status where
  | ok
  | ioError
  | capabilityError
  | invalidRegister
  | directionError
  | notInitialized
  | alreadyInitialized
  | illegalCommand
  deriving DecidableEq, Repr

/-- The STATUS code (R106). -/
def Status.code : Status → Byte
  | .ok => 0x00
  | .ioError => 0x01
  | .capabilityError => 0x02
  | .invalidRegister => 0x03
  | .directionError => 0x04
  | .notInitialized => 0x05
  | .alreadyInitialized => 0x06
  | .illegalCommand => 0x07

/-- The response word: `STATUS = rsp[15:8]`, `DATA = rsp[7:0]` (R91). -/
def rspWord (st : Status) (data : Byte) : RspWord := st.code.setWidth 16 <<< 8 ||| data.setWidth 16

/-- `STATUS` of a response word (R91). -/
def rspStatus (r : RspWord) : Byte := r.extractLsb' 8 8

/-- `DATA` of a response word (R91). -/
def rspData (r : RspWord) : Byte := r.extractLsb' 0 8

/-- A Boolean result as DATA (R113). -/
def boolData (b : Bool) : Byte := if b then 0x01 else 0x00

/-- The convergence predicate of the external reset helper, on the responses of a GETREG of IODIRA and of an
RDPORTA (R247). -/
def resetConverged (iodirA gpioA : RspWord) : Bool := iodirA == 0x00FF && gpioA == 0x0000

end Sys2Proof.Machine
end

