-- ==== Sys2Proof/Machine/Operands.lean ====
section
/-! DEFINITION. Operand forms: the constants of INIT, the flags of format I, the register map and its validity
check, and bit identifiers (spec/20_memory.md R54 to R58, spec/30_encoding.md R93, R96 to R100,
spec/43_bit_ops.md R190 to R193). -/

namespace Sys2Proof.Machine

open Sys2Proof

/-! ## INIT's constants and flags -/

/-- `SLAVE_DEFAULT` (R9, R121). -/
def slaveDefault : Byte := 0x20

/-- `BUS_DEFAULT`, standing for `/dev/i2c-1` (R9, R100, R121). -/
def busDefault : Byte := 1

/-- `IOCON_ADDR_BANK0` (R9, R58). -/
def ioconAddr : Byte := 0x0a

/-- `IOCON_BANK_BIT` (R9, R38). -/
def ioconBankBit : Byte := 0x80

/-- `FLG[0]` = ALT (R93). -/
def flgAlt (flg : Byte) : Bool := flg.getLsbD 0

/-- `FLG[1]` = SLA_GIVEN (R93). -/
def flgSlaGiven (flg : Byte) : Bool := flg.getLsbD 1

/-- `FLG[2]` = BUS_GIVEN (R93). -/
def flgBusGiven (flg : Byte) : Bool := flg.getLsbD 2

/-- The session address INIT binds: SLA when given, else the default (R25, R99). -/
def initSlave (sla flg : Byte) : Byte := if flgSlaGiven flg then sla else slaveDefault

/-- The bus INIT opens: BUS when given, else the default (R26, R100). -/
def initBus (flg bus : Byte) : Byte := if flgBusGiven flg then bus else busDefault

/-! ## The register map -/

/-- The six logical registers (R32). -/
inductive LogReg where
  | iodir (p : Port)
  | gpio (p : Port)
  | olat (p : Port)
  deriving DecidableEq, Repr

/-- The six logical registers, in the order of R32. -/
def allLogRegs : List LogReg := [.iodir .a, .iodir .b, .gpio .a, .gpio .b, .olat .a, .olat .b]

/-- `addrOf(BANK0, r)` (R54). -/
def addrBank0 : LogReg → Byte
  | .iodir .a => 0x00
  | .iodir .b => 0x01
  | .gpio .a => 0x12
  | .gpio .b => 0x13
  | .olat .a => 0x14
  | .olat .b => 0x15

/-- `addrOf(BANK1, r)` (R55). -/
def addrBank1 : LogReg → Byte
  | .iodir .a => 0x00
  | .iodir .b => 0x10
  | .gpio .a => 0x09
  | .gpio .b => 0x19
  | .olat .a => 0x0a
  | .olat .b => 0x1a

/-- `addrOf(L, r)` (R13, R40): none without a layout. -/
def addrOf (l : Layout) (r : LogReg) : Option Byte :=
  match l with
  | .none => none
  | .bank0 => some (addrBank0 r)
  | .bank1 => some (addrBank1 r)

/-- `valid(L, a)` (R13, R56). -/
def validAddr (l : Layout) (a : Byte) : Bool := allLogRegs.any fun r => addrOf l r == some a

/-! ## Bit identifiers -/

/-- `validBit(b)`: the code lies strictly between INVALID and END (R96, R191). -/
def validBit (b : Byte) : Bool := 0x01 ≤ b.toNat && b.toNat ≤ 0x10

/-- `port(b)` of a valid code (R190). -/
def bitPort (b : Byte) : Port := if b.toNat < 0x09 then .a else .b

/-- `off(b)` of a valid code (R190). -/
def bitOff (b : Byte) : Nat := if b.toNat < 0x09 then b.toNat - 0x01 else b.toNat - 0x09

/-- `1 << o` (R53, R193). -/
def bitMask (o : Nat) : Byte := (1 : Byte) <<< o

/-- `dirMask(p, o)`: `1 << o`, but for port B under `IsOutBTypoCompat` the original code's comparison (R193). -/
def dirMask (typoCompat : Bool) (p : Port) (o : Nat) : Byte :=
  match p with
  | .a => bitMask o
  | .b => if typoCompat then (if 1 < o then 0x01 else 0x00) else bitMask o

end Sys2Proof.Machine
end

