-- ==== Sys2Proof/Machine/Target.lean ====
section
/-! DEFINITION. The Target's register FSM: address decode, read multiplexing, writes, pin drivers, reset
(spec/10_state.md R31 to R38, spec/20_memory.md R59 to R65, spec/70_reset_and_hazards.md R242). -/

namespace Sys2Proof.Machine

open Sys2Proof

/-! ## Address decode -/

/-- What an address of the Target names (R59, R60). -/
inductive TargetReg where
  | data (r : LogReg)
  | iocon
  deriving DecidableEq, Repr

/-- The addresses decoded in chip bank 0 (R59). -/
def decodeBank0 : List (Byte × TargetReg) :=
  [(0x00, .data (.iodir .a)), (0x01, .data (.iodir .b)), (0x0a, .iocon), (0x12, .data (.gpio .a)),
   (0x13, .data (.gpio .b)), (0x14, .data (.olat .a)), (0x15, .data (.olat .b))]

/-- The addresses decoded in chip bank 1 (R60). -/
def decodeBank1 : List (Byte × TargetReg) :=
  [(0x00, .data (.iodir .a)), (0x10, .data (.iodir .b)), (0x09, .data (.gpio .a)), (0x19, .data (.gpio .b)),
   (0x0a, .data (.olat .a)), (0x1a, .data (.olat .b))]

/-- The chip bank `T.IOCON[7]` (R38, R41). -/
def Target.bank (t : Target) : Bool := t.iocon.getLsbD 7

/-- The register an address reaches under the current chip bank; none is a register the spec does not model
(R59 to R62). -/
def Target.decode (t : Target) (a : Byte) : Option TargetReg :=
  if t.bank then decodeBank1.lookup a else decodeBank0.lookup a

/-! ## Registers by port -/

/-- `T.IODIR[p]` (R31). -/
def Target.iodir (t : Target) : Port → Byte
  | .a => t.iodirA
  | .b => t.iodirB

/-- `T.OLAT[p]` (R31). -/
def Target.olat (t : Target) : Port → Byte
  | .a => t.olatA
  | .b => t.olatB

/-- `T.IODIR[p] <- v`. -/
def Target.setIodir (t : Target) (p : Port) (v : Byte) : Target :=
  match p with
  | .a => { t with iodirA := v }
  | .b => { t with iodirB := v }

/-- `T.OLAT[p] <- v`. -/
def Target.setOlat (t : Target) (p : Port) (v : Byte) : Target :=
  match p with
  | .a => { t with olatA := v }
  | .b => { t with olatB := v }

/-! ## Reads and writes -/

/-- The value of a GPIO read of port p (R35, R64): `PIN` where IODIR is 1, else the driven level, which is the latch
but where the pin is contended. -/
def Target.gpio (t : Target) (p : Port) (pins contention : Byte) : Byte :=
  (t.iodir p &&& pins) ||| (~~~ t.iodir p &&& (t.olat p ^^^ contention))

/-- What a successful read of a decoded register returns (R63). -/
def Target.read (t : Target) (r : TargetReg) (pins contention : Byte) : Byte :=
  match r with
  | .data (.iodir p) => t.iodir p
  | .data (.olat p) => t.olat p
  | .data (.gpio p) => t.gpio p pins contention
  | .iocon => t.iocon

/-- What a successful write of a decoded register leaves (R65). -/
def Target.write (t : Target) (r : TargetReg) (v : Byte) : Target :=
  match r with
  | .data (.iodir p) => t.setIodir p v
  | .data (.olat p) => t.setOlat p v
  | .data (.gpio p) => t.setOlat p v
  | .iocon => { t with iocon := v }

/-! ## Pins -/

/-- The level a pin is driven to (R37). -/
inductive Drive where
  | low | high | hiz
  deriving DecidableEq, Repr

/-- `drive[p][i]` (R37): the latch bit while the pin is an output, high impedance while it is an input. -/
def Target.drive (t : Target) (p : Port) (i : Nat) : Drive :=
  if (t.iodir p).getLsbD i then .hiz else if (t.olat p).getLsbD i then .high else .low

/-! ## Reset -/

/-- Every register at its reset value (R32, R38, R242). -/
def Target.resetRegs (t : Target) : Target := { Target.reset with availability := t.availability }

/-- Power-on (R240(b), R242): the registers at their reset values; a Target whose line the Host holds low stays held,
any other comes up (R243, log entry 5). -/
def Target.powerOn (t : Target) : Target :=
  { t.resetRegs with availability := if t.availability = .heldInReset then .heldInReset else .comingUp }

/-- The reset line goes low (R240(c), R242): the registers at their reset values, and no transaction answered (R243). -/
def Target.holdInReset (t : Target) : Target := { t.resetRegs with availability := .heldInReset }

/-- The reset line goes high (R240(c)): the Target comes up, and does not answer yet (R243, log entry 5). -/
def Target.release (t : Target) : Target :=
  if t.availability = .heldInReset then { t with availability := .comingUp } else t

/-- The Environment lets a Target that comes up answer again (R243, log entry 5). -/
def Target.comeUp (t : Target) (answers : Bool) : Target :=
  if answers && t.availability == .comingUp then { t with availability := .answering } else t

end Sys2Proof.Machine
end

