-- ==== Sys2Proof/Machine/Ops.lean ====
section
/-! DEFINITION. The shared operations: drawing from the Environment, other accessors, the Transport's operations,
the pseudocode of a command as a program of those operations, running it, and the response
(spec/00_scope.md R12, spec/10_state.md R29, spec/20_memory.md R62 to R82, spec/60_exceptions.md R210). -/

namespace Sys2Proof.Machine

open Sys2Proof

/-! ## Updates of the state -/

/-- `S.f <- v` (R12). -/
def State.mapSession (f : Session → Session) (s : State) : State := { s with session := f s.session }

/-- `T.r <- v` (R12). -/
def State.setTarget (t : Target) (s : State) : State := { s with target := t }

/-- `S.phase <- p` (R29). -/
def State.setPhase (p : Phase) (s : State) : State := { s with phase := p }

/-- Record one bus event. -/
def State.record (e : BusEvent) (s : State) : State := { s with log := s.log ++ [e] }

/-! ## Draws -/

/-- The k-th of the coming draws: the listed one, or a free value beyond the list. -/
def State.drawAt (s : State) (k : Nat) : Draw := (s.draws[k]?).getD (Config.freeDraw (s.drawn + k))

/-- The next draw. -/
def State.draw (s : State) : Draw := s.drawAt 0

/-- One draw has been used. -/
def State.advance (s : State) : State := { s with draws := s.draws.tail, drawn := s.drawn + 1 }

/-! ## Other accessors (R42) -/

/-- Another accessor's whole transaction on the Target, by the same decode and register rules as the Engine's
(R42, R63 to R65). DEDUCED: outside the decode it is the model fault (R62, log entry 10), and a Target that does not
answer sees nothing (log entry 5). -/
def State.accessorTx (tx : OtherTx) (s : State) : Except Fault State :=
  if s.target.availability = .answering then
    match tx with
    | .read a =>
      match s.target.decode a with
      | none => .error (.unmodelledTargetRegister a)
      | some _ => .ok (s.record (.accessor tx))
    | .write a v =>
      match s.target.decode a with
      | none => .error (.unmodelledTargetRegister a)
      | some r => .ok ((s.setTarget (s.target.write r v)).record (.accessor tx))
  else .ok (s.record (.accessor tx))

/-- Other accessors' transactions, in order. -/
def State.accessorTxs : List OtherTx → State → Except Fault State
  | [], s => .ok s
  | tx :: rest, s =>
    match s.accessorTx tx with
    | .error f => .error f
    | .ok s' => s'.accessorTxs rest

/-! ## The Transport's operations -/

/-- How an operation ends: it completes with a result, never completes (R29), or meets the model fault (R62). -/
inductive Perf where
  | completed (r : TxResult) (s : State)
  | never (s : State)
  | fault (f : Fault)
  deriving DecidableEq, Repr

/-- The session's transactions address the Target (R69). -/
def State.addressesTarget (s : State) : Bool := s.session.slave == s.par.targetAddr

/-- The Target answers the session's transactions: they address it (R69), and it is neither held in reset nor still to
answer again after one (R243, log entry 5). -/
def State.targetAnswers (s : State) : Bool := s.addressesTarget && s.target.availability == .answering

/-- How the session's next data transaction completes; `BusReliable` speaks of those to `TARGET_ADDR` only (R69). -/
def State.txOutcome (s : State) : TxOutcome := if s.addressesTarget then s.draw.outcome else s.draw.outcomeElsewhere

/-- What stands before a data transaction: its draw is used, a Target it addresses may answer again (R243), and other
accessors act (R42). -/
def State.beforeTx (s : State) : Except Fault State :=
  (if s.addressesTarget then s.advance.setTarget (s.target.comeUp s.draw.answers) else s.advance).accessorTxs
    s.draw.before

/-- A read transaction ends with outcome `o`; an `ok` one returns `v` (R69, R71). -/
def State.endRead (a v : Byte) (o : TxOutcome) (s : State) : Perf :=
  match o with
  | .ok => .completed (.byte v) (s.record (.transfer s.session.slave (.read a) o (some v)))
  | .nack _ => .completed .fail (s.record (.transfer s.session.slave (.read a) o none))
  | .fail => .completed .fail (s.record (.transfer s.session.slave (.read a) o none))
  | .hang => .never (s.record (.transfer s.session.slave (.read a) o none))

/-- `MemRead(a, 1)` (R12, R62, R63, R66, R69): other accessors first (R42), then the transaction. Where no Target
answers, an `ok` read returns a drawn byte (R69, R243). -/
def State.memRead (a : Byte) (s : State) : Perf :=
  match s.beforeTx with
  | .error f => .fault f
  | .ok s' =>
    if s'.targetAnswers then
      match s'.target.decode a with
      | none => .fault (.unmodelledTargetRegister a)
      | some r => s'.endRead a (s'.target.read r s.draw.pins s.draw.contention) s.txOutcome
    else s'.endRead a s.draw.byte s.txOutcome

/-- A write transaction ends with outcome `o`. -/
def State.endWrite (a v : Byte) (o : TxOutcome) (s : State) : Perf :=
  match o with
  | .ok => .completed .ok (s.record (.transfer s.session.slave (.write a v) o none))
  | .nack _ => .completed .fail (s.record (.transfer s.session.slave (.write a v) o none))
  | .fail => .completed .fail (s.record (.transfer s.session.slave (.write a v) o none))
  | .hang => .never (s.record (.transfer s.session.slave (.write a v) o none))

/-- Whether a write with outcome `o` updates the addressed register: an `ok` one does (R65), a failed one as drawn
(R70), one that never completes has no completion at which it could (R74; DEDUCED, log entry 6). -/
def writeLands (o : TxOutcome) (wrote : Bool) : Bool :=
  match o with
  | .ok => true
  | .nack _ => wrote
  | .fail => wrote
  | .hang => false

/-- `MemWrite(a, 1, v)` (R12, R62, R65, R67, R69, R70). Where another address is
bound, the Target sees nothing (R69); one that is held in reset or comes up is not written (DEDUCED, log entry 5). -/
def State.memWrite (a v : Byte) (s : State) : Perf :=
  match s.beforeTx with
  | .error f => .fault f
  | .ok s' =>
    if s'.targetAnswers then
      match s'.target.decode a with
      | none => .fault (.unmodelledTargetRegister a)
      | some r =>
        (if writeLands s.txOutcome s.draw.wrote then s'.setTarget (s'.target.write r v) else s').endWrite a v
          s.txOutcome
    else s'.endWrite a v s.txOutcome

/-- `OpenOK(bus)` (R79). -/
def openOK (p : Params) (bus : Byte) : Bool := !p.openFails.contains bus

/-- `Caps(bus)` (R80). -/
def capsOf (p : Params) (bus : Byte) : Caps :=
  { readByteData := !p.noReadByte.contains bus, writeByteData := !p.noWriteByte.contains bus }

/-- A control operation completes with `r`; none hangs and none touches the Target (R78). -/
def State.control (op : BusOp) (r : TxResult) (s : State) : Perf := .completed r (s.record (.control op r))

/-- One operation of the Engine: OPEN (R79), FUNCS (R80), BIND (R81), CLOSE (R82), MemRead, MemWrite. -/
def perform (op : BusOp) (s : State) : Perf :=
  match op with
  | .openBus bus => s.control op (if openOK s.par bus then .ok else .fail)
  | .funcs => s.advance.control op (if s.draw.ctrl then .caps (capsOf s.par s.session.bus) else .fail)
  | .bind addr => s.advance.control op (if addr.toNat ≤ 0x7F && s.draw.bind then .ok else .fail)
  | .close => s.advance.control op (if s.draw.ctrl then .ok else .fail)
  | .read a => s.memRead a
  | .write a v => s.memWrite a v

/-! ## The pseudocode of a command -/

/-- A command's pseudocode (R12, R29): it ends with a status and DATA, writes a field of `S`, tries to register the
exit hook (R125), or issues an operation and goes on with its result. -/
inductive Prog where
  | done (st : Status) (data : Byte)
  | assign (f : Session → Session) (k : Prog)
  | hook (k : Prog)
  | issue (op : BusOp) (k : TxResult → Prog)

/-- `return v` (R12). -/
def Prog.ret (v : Byte) : Prog := .done .ok v

/-- `return` (R12). -/
def Prog.retOk : Prog := .done .ok 0

/-- `raise E`: the command ends at once with status E and DATA 0x00 (R12, R210). Every error of the block is
delivered by this one operation; it saves no state and has no handler (R220). -/
def Prog.raise (st : Status) : Prog := .done st 0

/-- End with a status and no data: the caller of a status-returning sub-sequence (R169). -/
def Prog.endWith (st : Status) : Prog := if st = .ok then .retOk else .raise st

/-- `requireInit` (R140). -/
def requireInit (s : State) (k : Prog) : Prog := if s.session.init then k else .raise .notInitialized

/-- `requireValid(a)` (R141). -/
def requireValid (s : State) (a : Byte) (k : Prog) : Prog :=
  if validAddr s.session.layout a then k else .raise .invalidRegister

/-- The address of a logical register in the session's layout (R13). Without a layout there is none; a session
that is initialised has one (R24), so that the other case is reached by no run: it answers as an uninitialised
session (DESIGN CHOICE, log entry 7). -/
def withAddr (s : State) (r : LogReg) (k : Byte → Prog) : Prog :=
  match addrOf s.session.layout r with
  | some a => k a
  | none => .raise .notInitialized

/-- `r := MemRead(a, 1); if r == fail: raise IO_ERROR` (R143). -/
def readOr (a : Byte) (k : Byte → Prog) : Prog :=
  .issue (.read a) fun
    | .byte v => k v
    | _ => .raise .ioError

/-- `w := MemWrite(a, 1, v); if w == fail: raise IO_ERROR; return` (R145). -/
def writeAndReturn (a v : Byte) : Prog :=
  .issue (.write a v) fun
    | .ok => .retOk
    | _ => .raise .ioError

/-- The operation of a read-modify-write (R169). -/
inductive RmwOp where
  | or | andnot
  deriving DecidableEq, Repr

/-- `v | m` or `v & ~m` (R146, R147). -/
def RmwOp.apply : RmwOp → Byte → Byte → Byte
  | .or, v, m => v ||| m
  | .andnot, v, m => v &&& ~~~ m

/-- The transaction pair of a read-modify-write at address `a`, giving its status to `k` (R75, R146, R147, R169). -/
def rmwAt (a : Byte) (op : RmwOp) (m : Byte) (k : Status → Prog) : Prog :=
  .issue (.read a) fun
    | .byte v =>
      .issue (.write a (op.apply v m)) fun
        | .ok => k .ok
        | _ => k .ioError
    | _ => k .ioError

/-- The zero-mask short-circuit around the checks of a read-modify-write: with `ZeroMaskFirst` the mask test comes
first, else after the checks (R148). -/
def zeroMask (s : State) (m : Byte) (checks : Prog → Prog) (skip body : Prog) : Prog :=
  if s.par.zeroMaskFirst then (if m = 0 then skip else checks body)
  else checks (if m = 0 then skip else body)

/-! ## Running a program -/

/-- How a command's run ends. -/
inductive Ran where
  | finished (st : Status) (data : Byte) (s : State)
  | hung (s : State)
  | fault (f : Fault)

/-- `S.hookRegistered <- S.hookRegistered or HookOK` (R120, R125): `HookOK` is a draw. -/
def State.tryHook (s : State) : State :=
  s.advance.mapSession fun S => { S with hookRegistered := S.hookRegistered || s.draw.ctrl }

/-- Run a program to its end. -/
def Prog.go : Prog → State → Ran
  | .done st data, s => .finished st data s
  | .assign f k, s => k.go (s.mapSession f)
  | .hook k, s => k.go s.tryHook
  | .issue op k, s =>
    match perform op s with
    | .completed r s' => (k r).go s'
    | .never s' => .hung s'
    | .fault f => .fault f

/-- Emit the response and return to IDLE (R29, R91, R210, R221). -/
def State.respond (st : Status) (data : Byte) (s : State) : State :=
  { s with phase := .idle, responses := s.responses ++ [rspWord st data] }

/-- A command, run to its end: one response and IDLE, or HUNG and no response (R29, R223). -/
def Prog.run (p : Prog) (s : State) : Host.Outcome State Fault Refusal :=
  match p.go s with
  | .finished st data s' => .next (s'.respond st data)
  | .hung s' => .next (s'.setPhase .hung)
  | .fault f => .fault f

/-! ## One operation at a time (R29) -/

/-- What is left of a program after operations that completed with these results: the point of `BUSY(cmd, k)`.
What stood before the k-th operation has been carried out. -/
def Prog.resume : Prog → List TxResult → Prog
  | .done st data, _ => .done st data
  | .assign f k, [] => .assign f k
  | .assign _ k, r :: rs => k.resume (r :: rs)
  | .hook k, [] => .hook k
  | .hook k, r :: rs => k.resume (r :: rs)
  | .issue op k, [] => .issue op k
  | .issue _ k, r :: rs => (k r).resume rs

/-- How a move of the Engine ends. -/
inductive Moved where
  | issued (r : TxResult) (s : State)
  | finished (st : Status) (data : Byte) (s : State)
  | hung (s : State)
  | fault (f : Fault)

/-- Evaluate a program up to its next operation, which is performed, or its end (R29). -/
def Prog.move : Prog → State → Moved
  | .done st data, s => .finished st data s
  | .assign f k, s => k.move (s.mapSession f)
  | .hook k, s => k.move s.tryHook
  | .issue op _, s =>
    match perform op s with
    | .completed r s' => .issued r s'
    | .never s' => .hung s'
    | .fault f => .fault f

end Sys2Proof.Machine
end

