-- ==== Sys2Proof/Machine/BitOps.lean ====
section
/-! DEFINITION. The single-bit commands ISOUT, SETBIT, CLRBIT (spec/43_bit_ops.md). -/

namespace Sys2Proof.Machine

open Sys2Proof

/-- `ISOUT_body(b)` (R192), giving its Boolean to `k`: false for an uninitialised session, an invalid code, a failed
read, an input pin. -/
def isoutBody (b : Byte) (s : State) (k : Bool → Prog) : Prog :=
  if s.session.init && validBit b then
    match addrOf s.session.layout (.iodir (bitPort b)) with
    | some a =>
      .issue (.read a) fun
        | .byte v => k (v &&& dirMask s.par.isOutBTypoCompat (bitPort b) (bitOff b) == 0)
        | _ => k false
    | none => k false
  else k false

/-- The pseudocode of ISOUT (R192). -/
def progIsout (bit : Byte) (s : State) : Prog := isoutBody bit s fun isOut => .ret (boolData isOut)

/-- ISOUT (R192). -/
def execIsout (bit : Byte) (s : State) : Host.Outcome State Fault Refusal := (progIsout bit s).run s

/-- The body of SETBIT and CLRBIT: session check, direction check, latch read, port write (R194 to R196). -/
def bitRmw (op : RmwOp) (b : Byte) (s : State) : Prog :=
  requireInit s <|
  isoutBody b s fun isOut =>
    if isOut then
      withAddr s (.olat (bitPort b)) fun aLatch =>
      withAddr s (.gpio (bitPort b)) fun aPort =>
      readOr aLatch fun v => writeAndReturn aPort (op.apply v (bitMask (bitOff b)))
    else .raise .directionError

/-- The pseudocode of SETBIT (R194). -/
def progSetbit (bit : Byte) (s : State) : Prog := bitRmw .or bit s

/-- SETBIT (R194). -/
def execSetbit (bit : Byte) (s : State) : Host.Outcome State Fault Refusal := (progSetbit bit s).run s

/-- The pseudocode of CLRBIT (R195). -/
def progClrbit (bit : Byte) (s : State) : Prog := bitRmw .andnot bit s

/-- CLRBIT (R195). -/
def execClrbit (bit : Byte) (s : State) : Host.Outcome State Fault Refusal := (progClrbit bit s).run s

end Sys2Proof.Machine
end

