-- ==== Sys2Proof/Machine/DirPort.lean ====
section
/-! DEFINITION. The direction and port commands SETOUT, SETIN, WRPORTA, WRPORTB, RDPORTA, RDPORTB
(spec/42_direction_port.md). -/

namespace Sys2Proof.Machine

open Sys2Proof

/-- `rmw1(r, m, op)` (R169), giving its status to `k`; `requireInit` inside it ends the command. -/
def rmw1 (s : State) (r : LogReg) (op : RmwOp) (m : Byte) (k : Status → Prog) : Prog :=
  zeroMask s m (requireInit s) (k .ok) (withAddr s r fun a => rmwAt a op m k)

/-- `rmw1` on IODIRA, then on IODIRB; a port-A failure ends the command (R170 to R172). -/
def rmwBothDirs (s : State) (op : RmwOp) (maskA maskB : Byte) : Prog :=
  rmw1 s (.iodir .a) op maskA fun st =>
    if st = .ok then rmw1 s (.iodir .b) op maskB .endWith else .raise st

/-- The pseudocode of SETOUT (R170). -/
def progSetout (maskA maskB : Byte) (s : State) : Prog := rmwBothDirs s .andnot maskA maskB

/-- SETOUT (R170). -/
def execSetout (maskA maskB : Byte) (s : State) : Host.Outcome State Fault Refusal := (progSetout maskA maskB s).run s

/-- The pseudocode of SETIN (R171). -/
def progSetin (maskA maskB : Byte) (s : State) : Prog := rmwBothDirs s .or maskA maskB

/-- SETIN (R171). -/
def execSetin (maskA maskB : Byte) (s : State) : Host.Outcome State Fault Refusal := (progSetin maskA maskB s).run s

/-- The pseudocode of WRPORTA (R174). -/
def progWrporta (val : Byte) (s : State) : Prog :=
  requireInit s (withAddr s (.gpio .a) fun a => writeAndReturn a val)

/-- WRPORTA (R174). -/
def execWrporta (val : Byte) (s : State) : Host.Outcome State Fault Refusal := (progWrporta val s).run s

/-- The pseudocode of WRPORTB (R175). -/
def progWrportb (val : Byte) (s : State) : Prog :=
  requireInit s (withAddr s (.gpio .b) fun a => writeAndReturn a val)

/-- WRPORTB (R175). -/
def execWrportb (val : Byte) (s : State) : Host.Outcome State Fault Refusal := (progWrportb val s).run s

/-- The pseudocode of RDPORTA (R176). -/
def progRdporta (s : State) : Prog := requireInit s (withAddr s (.gpio .a) fun a => readOr a .ret)

/-- RDPORTA (R176). -/
def execRdporta (s : State) : Host.Outcome State Fault Refusal := (progRdporta s).run s

/-- The pseudocode of RDPORTB (R177). -/
def progRdportb (s : State) : Prog := requireInit s (withAddr s (.gpio .b) fun a => readOr a .ret)

/-- RDPORTB (R177). -/
def execRdportb (s : State) : Host.Outcome State Fault Refusal := (progRdportb s).run s

end Sys2Proof.Machine
end

