-- ==== Sys2Proof/Machine/RegAccess.lean ====
section
/-! DEFINITION. The register access commands VALREG, READREG, GETREG, WRITEREG, SETONES, SETZEROS
(spec/41_register_access.md). -/

namespace Sys2Proof.Machine

open Sys2Proof

/-- The pseudocode of VALREG (R142). -/
def progValreg (reg : Byte) (s : State) : Prog := .ret (boolData (validAddr s.session.layout reg))

/-- VALREG (R142). -/
def execValreg (reg : Byte) (s : State) : Host.Outcome State Fault Refusal := (progValreg reg s).run s

/-- The pseudocode of READREG (R143). -/
def progReadreg (reg : Byte) (s : State) : Prog := requireInit s (requireValid s reg (readOr reg .ret))

/-- READREG (R143). -/
def execReadreg (reg : Byte) (s : State) : Host.Outcome State Fault Refusal := (progReadreg reg s).run s

/-- The pseudocode of GETREG, that of READREG (R144). -/
def progGetreg (reg : Byte) (s : State) : Prog := requireInit s (requireValid s reg (readOr reg .ret))

/-- GETREG (R144). -/
def execGetreg (reg : Byte) (s : State) : Host.Outcome State Fault Refusal := (progGetreg reg s).run s

/-- The pseudocode of WRITEREG (R145). -/
def progWritereg (reg val : Byte) (s : State) : Prog := requireInit s (requireValid s reg (writeAndReturn reg val))

/-- WRITEREG (R145). -/
def execWritereg (reg val : Byte) (s : State) : Host.Outcome State Fault Refusal := (progWritereg reg val s).run s

/-- The pseudocode of SETONES (R146, R148). -/
def progSetones (reg mask : Byte) (s : State) : Prog :=
  zeroMask s mask (fun k => requireInit s (requireValid s reg k)) .retOk (rmwAt reg .or mask .endWith)

/-- SETONES (R146). -/
def execSetones (reg mask : Byte) (s : State) : Host.Outcome State Fault Refusal := (progSetones reg mask s).run s

/-- The pseudocode of SETZEROS (R147, R148). -/
def progSetzeros (reg mask : Byte) (s : State) : Prog :=
  zeroMask s mask (fun k => requireInit s (requireValid s reg k)) .retOk (rmwAt reg .andnot mask .endWith)

/-- SETZEROS (R147). -/
def execSetzeros (reg mask : Byte) (s : State) : Host.Outcome State Fault Refusal := (progSetzeros reg mask s).run s

end Sys2Proof.Machine
end

