-- ==== Sys2Proof/Machine/SessionCmds.lean ====
section
/-! DEFINITION. The session commands INIT and CLEANUP (spec/40_session.md). -/

namespace Sys2Proof.Machine

open Sys2Proof

/-- `ABORT ; raise E` (R120, R123). -/
def abortInit (st : Status) : Prog :=
  .issue .close fun _ =>
    .assign (fun S => { S with handleOpen := false, pathOwned := false, layout := .none }) (.raise st)

/-- The success path of INIT, with layout L (R120, R125, R126). -/
def finishInit (l : Layout) : Prog :=
  .hook (.assign (fun S => { S with layout := l, init := true }) .retOk)

/-- INIT's configuration-register update, with no validity check (R58, R120, R127). -/
def initBank : Prog :=
  .issue (.read ioconAddr) fun
    | .byte v =>
      .issue (.write ioconAddr (v ||| ioconBankBit)) fun
        | .ok => finishInit .bank1
        | _ => abortInit .ioError
    | _ => abortInit .ioError

/-- The pseudocode of INIT (R120 to R127). -/
def progInit (sla flg bus : Byte) (s : State) : Prog :=
  if s.session.init then .raise .alreadyInitialized
  else
    .assign (fun S => { S with bus := initBus flg bus, pathOwned := flgBusGiven flg }) <|
    .issue (.openBus (initBus flg bus)) fun
      | .ok =>
        .assign (fun S => { S with handleOpen := true }) <|
        .issue .funcs fun
          | .caps c =>
            if c.readByteData && c.writeByteData then
              .issue (.bind (initSlave sla flg)) fun
                | .ok =>
                  .assign (fun S => { S with slave := (initSlave sla flg).setWidth 7 }) <|
                  if flgAlt flg then initBank else finishInit .bank0
                | _ => abortInit .ioError
            else abortInit .capabilityError
          | _ => abortInit .ioError
      | _ => .assign (fun S => { S with pathOwned := false }) (.raise .ioError)

/-- INIT (R120). -/
def execInit (sla flg bus : Byte) (s : State) : Host.Outcome State Fault Refusal := (progInit sla flg bus s).run s

/-- The last writes of CLEANUP (R131). -/
def endCleanup : Prog := .assign (fun S => { S with layout := .none, init := false }) .retOk

/-- The pseudocode of CLEANUP (R131). -/
def progCleanup (s : State) : Prog :=
  if s.session.init then
    .assign (fun S => { S with pathOwned := false }) <|
    if s.session.handleOpen then
      .issue .close fun _ => .assign (fun S => { S with handleOpen := false }) endCleanup
    else endCleanup
  else .retOk

/-- CLEANUP (R131). -/
def execCleanup (s : State) : Host.Outcome State Fault Refusal := (progCleanup s).run s

end Sys2Proof.Machine
end

