-- ==== Sys2Proof/Machine/Dispatch.lean ====
section
/-! DEFINITION. One arm per command: a direct call of its meaning. -/

namespace Sys2Proof.Machine

open Sys2Proof

/-- Carry out a command that the Engine has accepted. -/
def exec (i : Instr) (s : State) : Host.Outcome State Fault Refusal :=
  match i with
  | .init sla flg bus => Sys2Proof.Machine.execInit sla flg bus s
  | .cleanup => Sys2Proof.Machine.execCleanup s
  | .valreg reg => Sys2Proof.Machine.execValreg reg s
  | .readreg reg => Sys2Proof.Machine.execReadreg reg s
  | .getreg reg => Sys2Proof.Machine.execGetreg reg s
  | .writereg reg val => Sys2Proof.Machine.execWritereg reg val s
  | .setones reg mask => Sys2Proof.Machine.execSetones reg mask s
  | .setzeros reg mask => Sys2Proof.Machine.execSetzeros reg mask s
  | .setout maskA maskB => Sys2Proof.Machine.execSetout maskA maskB s
  | .setin maskA maskB => Sys2Proof.Machine.execSetin maskA maskB s
  | .wrporta val => Sys2Proof.Machine.execWrporta val s
  | .wrportb val => Sys2Proof.Machine.execWrportb val s
  | .rdporta => Sys2Proof.Machine.execRdporta s
  | .rdportb => Sys2Proof.Machine.execRdportb s
  | .isout bit => Sys2Proof.Machine.execIsout bit s
  | .setbit bit => Sys2Proof.Machine.execSetbit bit s
  | .clrbit bit => Sys2Proof.Machine.execClrbit bit s

end Sys2Proof.Machine
end

