-- ==== Sys2Proof/Machine/Agenda.lean ====
section
/-! DEFINITION. What each move of the Host and the Environment does (spec/00_scope.md R4, R18,
spec/10_state.md R29, R42, spec/40_session.md R132, spec/70_reset_and_hazards.md R240 to R243). -/

namespace Sys2Proof.Machine

open Sys2Proof

/-- The answer to an illegal command: STATUS ILLEGAL_COMMAND, no transaction, no other change (R102). -/
def answerIllegal (s : State) : State := s.respond .illegalCommand 0

/-- The Engine runs the command of a word to its end (R29, R102, R105). -/
def runWord (w : CmdWord) (s : State) : Host.Outcome State Fault Refusal :=
  match decode w with
  | .ok i => exec i s
  | .error _ => .next (answerIllegal s)

/-- A command's pseudocode. -/
def progOf (i : Instr) (s : State) : Prog :=
  match i with
  | .init sla flg bus => progInit sla flg bus s
  | .cleanup => progCleanup s
  | .valreg reg => progValreg reg s
  | .readreg reg => progReadreg reg s
  | .getreg reg => progGetreg reg s
  | .writereg reg val => progWritereg reg val s
  | .setones reg mask => progSetones reg mask s
  | .setzeros reg mask => progSetzeros reg mask s
  | .setout maskA maskB => progSetout maskA maskB s
  | .setin maskA maskB => progSetin maskA maskB s
  | .wrporta val => progWrporta val s
  | .wrportb val => progWrportb val s
  | .rdporta => progRdporta s
  | .rdportb => progRdportb s
  | .isout bit => progIsout bit s
  | .setbit bit => progSetbit bit s
  | .clrbit bit => progClrbit bit s

/-- One move of the Engine in `BUSY(cmd, k)`: to `BUSY(cmd, k + 1)`, to IDLE with a response, or to HUNG (R29). In
IDLE and HUNG the Engine does not move. For the largest k see log entry 17 (R258). -/
def engineMove (s : State) : Host.Outcome State Fault Refusal :=
  match s.phase with
  | .idle => .next s
  | .hung => .next s
  | .busy w results =>
    match decode w with
    | .error _ => .next (answerIllegal s)
    | .ok i =>
      match ((progOf i s).resume results).move s with
      | .issued r s' => .next (s'.setPhase (.busy w (results ++ [r])))
      | .finished st data s' => .next (s'.respond st data)
      | .hung s' => .next (s'.setPhase .hung)
      | .fault f => .fault f

/-- Moves of the Engine until it is no longer BUSY, at most n. -/
def engineMoves : Nat → State → Host.Outcome State Fault Refusal
  | 0, s => .next s
  | n + 1, s =>
    match s.phase with
    | .idle => .next s
    | .hung => .next s
    | .busy _ _ =>
      match engineMove s with
      | .next s' => engineMoves n s'
      | .fault f => .fault f
      | .refused r => .refused r

/-- Process exit (R132): with the hook registered and the Engine IDLE, the pseudocode of CLEANUP with no response;
afterwards no command is accepted. Without the hook no pseudocode runs (DEDUCED, log entry 8). -/
def processExit (s : State) : Host.Outcome State Fault Refusal :=
  if s.phase = .idle ∧ s.exited = false then
    if s.session.hookRegistered then
      match (progCleanup s).go s with
      | .finished _ _ s' => .next { s' with exited := true }
      | .hung s' => .next (s'.setPhase .hung)
      | .fault f => .fault f
    else .next { s with exited := true }
  else .refused .exitNotIdle

/-- Engine reset (R240(a), R241, R243): `S` and the sequencing state; the Target keeps its registers. -/
def engineReset (s : State) : State := { s with session := Session.reset, phase := .idle, exited := false }

/-- A command word at the Engine: accepted when IDLE and before process exit (R18, R132; after an exit without the hook
DEDUCED, log entry 8). -/
def acceptWord (s : State) (k : State → Host.Outcome State Fault Refusal) : Host.Outcome State Fault Refusal :=
  if s.exited then .refused .submitAfterExit
  else if s.phase = .idle then k s
  else .refused .submitNotIdle

/-- What a move does; the state's agenda no longer holds it. After a power-on or a reset pulse the Target answers only
when the Environment lets it: by `targetAnswersAgain` or a draw (R243, log entry 5). -/
def handle (e : Event) (s : State) : Host.Outcome State Fault Refusal :=
  match e with
  | .submit w => acceptWord s (runWord w)
  | .start w => acceptWord s fun s' => .next (s'.setPhase (.busy w []))
  | .proceed => engineMove s
  | .exit => processExit s
  | .engineReset => .next (engineReset s)
  | .targetPowerOn => .next (s.setTarget s.target.powerOn)
  | .resetLineLow => .next (s.setTarget s.target.holdInReset)
  | .resetLineHigh => .next (s.setTarget s.target.release)
  | .targetAnswersAgain => .next (s.setTarget (s.target.comeUp true))
  | .accessor tx =>
    match s.accessorTx tx with
    | .ok s' => .next s'
    | .error f => .fault f

end Sys2Proof.Machine
end

