-- ==== Sys2Proof/Machine/Step.lean ====
section
/-! DEFINITION. One step of the machine, and where a command word is placed for it. -/

namespace Sys2Proof.Machine

open Sys2Proof

/-- One step: the next move of the agenda; with none, a BUSY Engine makes its next move and an IDLE or HUNG one
waits (R29, R241). -/
def step (s : State) : Host.Outcome State Fault Refusal :=
  match s.agenda with
  | [] => engineMove s
  | e :: rest => handle e { s with agenda := rest }

/-- The command word `w` submitted next, to an Engine that accepts it (IDLE, the Host process not exited; R18,
log entry 1). -/
def State.withFetchWord (s : State) (nbits w : Nat) : State :=
  { s with
    agenda := .submit (BitVec.ofNat 32 (w % 2 ^ nbits)) :: s.agenda
    phase := .idle
    exited := false }

end Sys2Proof.Machine
end

