-- ==== Sys2Proof/Machine/Asm.lean ====
section
/-! DEFINITION. The assembler syntax, the pseudo-commands and the command line of the sample programs
(spec/30_encoding.md R107 to R112). They produce commands; no step of the machine uses them. -/

namespace Sys2Proof.Machine

open Sys2Proof

/-! ## Pseudo-commands -/

/-- `NOP` (R110). -/
def pseudoNop : List Instr := [.setones 0x00 0x00]

/-- `DUMP` under layout L (R111). -/
def pseudoDump (l : Layout) : List Instr := allLogRegs.filterMap fun r => (addrOf l r).map .getreg

/-- `ALLOUT` (R111). -/
def pseudoAllout : List Instr := [.setout 0xFF 0xFF]

/-- `ALLIN` (R111). -/
def pseudoAllin : List Instr := [.setin 0xFF 0xFF]

/-! ## Words of a line -/

/-- A list of characters cut at the characters satisfying `p`. -/
def splitChars (p : Char → Bool) : List Char → List (List Char)
  | [] => [[]]
  | c :: cs =>
    if p c then [] :: splitChars p cs
    else
      match splitChars p cs with
      | [] => [[c]]
      | w :: ws => (c :: w) :: ws

/-- White space inside a line. -/
def isBlank (c : Char) : Bool := c == ' ' || c == '\t'

/-- The words of a line. -/
def lineWords (l : List Char) : List (List Char) := (splitChars isBlank l).filter (!·.isEmpty)

/-- The line without its comment, in capitals: `;` starts a comment, names are case-insensitive (R107). Literals, INIT's
options and `.layout` lines are so too (DESIGN CHOICE, log entry 14). -/
def lineCode (l : List Char) : List Char := (l.takeWhile (· != ';')).map Char.toUpper

/-- The comma-separated operands (R107), each one word; none where one is not. -/
def lineOperands (l : List Char) : Option (List (List Char)) :=
  if lineWords l = [] then some []
  else (splitChars (· == ',') l).mapM fun piece =>
    match lineWords piece with
    | [w] => some w
    | _ => none

/-! ## Operands -/

/-- A digit's value in capitals. -/
def digitVal (c : Char) : Option Nat :=
  if '0' ≤ c ∧ c ≤ '9' then some (c.toNat - '0'.toNat)
  else if 'A' ≤ c ∧ c ≤ 'F' then some (c.toNat - 'A'.toNat + 10)
  else none

/-- The value of a string of digits. -/
def digitsVal (base : Nat) : Nat → List Char → Option Nat
  | acc, [] => some acc
  | acc, c :: cs =>
    match digitVal c with
    | some d => if d < base then digitsVal base (acc * base + d) cs else none
    | none => none

/-- A literal in capitals: `0x`-prefixed hexadecimal or decimal, 0 to 255 (R109). R107 makes mnemonics and symbolic names
case-insensitive and says nothing of a literal's letters; `0X` and digits of either case are accepted, and leading
zeros (DESIGN CHOICE, log entry 14). -/
def parseNum (w : List Char) : Option Byte :=
  let n :=
    match w with
    | '0' :: 'X' :: d :: ds => digitsVal 16 0 (d :: ds)
    | d :: ds => digitsVal 10 0 (d :: ds)
    | [] => none
  n.bind fun v => if v ≤ 255 then some (BitVec.ofNat 8 v) else none

/-- `<reg>`: a numeral, or a logical name resolved under the assembler's layout (R109). -/
def parseReg (l : Layout) (w : List Char) : Option Byte :=
  match String.ofList w with
  | "IODIRA" => addrOf l (.iodir .a)
  | "IODIRB" => addrOf l (.iodir .b)
  | "GPIOA" => addrOf l (.gpio .a)
  | "GPIOB" => addrOf l (.gpio .b)
  | "OLATA" => addrOf l (.olat .a)
  | "OLATB" => addrOf l (.olat .b)
  | _ => parseNum w

/-- `<bit>`: a pin name, a sentinel, or `#<n>` (R96, R109). -/
def parseBit (w : List Char) : Option Byte :=
  match w with
  | '#' :: n => parseNum n
  | ['G', 'P', port, d] =>
    match digitVal d with
    | some o =>
      if o ≤ 7 then
        (if port = 'A' then some (BitVec.ofNat 8 (0x01 + o))
         else if port = 'B' then some (BitVec.ofNat 8 (0x09 + o)) else none)
      else none
    | none => none
  | _ =>
    match String.ofList w with
    | "INVALID" => some 0x00
    | "END" => some 0x11
    | _ => none

/-- What follows `key` in `w`, if `w` begins with it. -/
def afterKey (key w : List Char) : Option (List Char) :=
  if w.take key.length = key then some (w.drop key.length) else none

/-- INIT's options `bus=<n>`, `addr=<a>`, `alt`, omitted fields encoded as 0 (R108). R108 shows them in one order; they
are taken in any (DESIGN CHOICE, log entry 14). -/
def parseInit : List (List Char) → Byte → Byte → Byte → Option Instr
  | [], sla, flg, bus => some (.init sla flg bus)
  | w :: ws, sla, flg, bus =>
    if w = ['A', 'L', 'T'] then parseInit ws sla (flg ||| 0x01) bus
    else
      match afterKey ['B', 'U', 'S', '='] w, afterKey ['A', 'D', 'D', 'R', '='] w with
      | some n, _ =>
        match parseNum n with
        | some v => parseInit ws sla (flg ||| 0x04) v
        | none => none
      | none, some n =>
        match parseNum n with
        | some v => parseInit ws v (flg ||| 0x02) bus
        | none => none
      | none, none => none

/-! ## Lines -/

/-- Why a line is no assembler line. -/
inductive AsmError where
  | unknownMnemonic
  | badOperands
  deriving DecidableEq, Repr

/-- One operand, read by `p`. -/
def asm1 (p : List Char → Option Byte) (mk : Byte → Instr) (ops : List (List Char)) : Option Instr :=
  match ops with
  | [x] => (p x).map mk
  | _ => none

/-- Two operands, read by `p` and `q`. -/
def asm2 (p q : List Char → Option Byte) (mk : Byte → Byte → Instr) (ops : List (List Char)) : Option Instr :=
  match ops with
  | [x, y] => (p x).bind fun a => (q y).map fun b => mk a b
  | _ => none

/-- No operand. -/
def asm0 (is : List Instr) (ops : List (List Char)) : Option (List Instr) := if ops = [] then some is else none

/-- A mnemonic's commands on its operands, under the assembler's layout (R108 to R111): none for a mnemonic that is
unknown, some none for operands that do not fit. -/
def asmMnemonic (l : Layout) (m : String) (ops : List (List Char)) : Option (Option (List Instr)) :=
  let one (i : Option Instr) : Option (Option (List Instr)) := some (i.map fun x => [x])
  match m with
  | "CLEANUP" => some (asm0 [.cleanup] ops)
  | "VALREG" => one (asm1 (parseReg l) .valreg ops)
  | "READREG" => one (asm1 (parseReg l) .readreg ops)
  | "GETREG" => one (asm1 (parseReg l) .getreg ops)
  | "WRITEREG" => one (asm2 (parseReg l) parseNum .writereg ops)
  | "SETONES" => one (asm2 (parseReg l) parseNum .setones ops)
  | "SETZEROS" => one (asm2 (parseReg l) parseNum .setzeros ops)
  | "SETOUT" => one (asm2 parseNum parseNum .setout ops)
  | "SETIN" => one (asm2 parseNum parseNum .setin ops)
  | "WRPORTA" => one (asm1 parseNum .wrporta ops)
  | "WRPORTB" => one (asm1 parseNum .wrportb ops)
  | "RDPORTA" => some (asm0 [.rdporta] ops)
  | "RDPORTB" => some (asm0 [.rdportb] ops)
  | "ISOUT" => one (asm1 parseBit .isout ops)
  | "SETBIT" => one (asm1 parseBit .setbit ops)
  | "CLRBIT" => one (asm1 parseBit .clrbit ops)
  | "NOP" => some (asm0 pseudoNop ops)
  | "DUMP" => some (asm0 (pseudoDump l) ops)
  | "ALLOUT" => some (asm0 pseudoAllout ops)
  | "ALLIN" => some (asm0 pseudoAllin ops)
  | _ => none

/-- One assembler line under a layout: the layout after it and the commands it stands for (R107 to R111). -/
def asmLine (l : Layout) (text : List Char) : Except AsmError (Layout × List Instr) :=
  match lineWords (lineCode text) with
  | [] => .ok (l, [])
  | m :: rest =>
    match String.ofList m with
    | ".LAYOUT" =>
      match rest with
      | [w] =>
        match String.ofList w with
        | "BANK0" => .ok (.bank0, [])
        | "BANK1" => .ok (.bank1, [])
        | _ => .error .badOperands
      | _ => .error .badOperands
    | "INIT" =>
      match parseInit rest 0 0 0 with
      | some i => .ok (l, [i])
      | none => .error .badOperands
    | name =>
      match lineOperands (((lineCode text).dropWhile isBlank).drop m.length) with
      | none => .error .badOperands
      | some ops =>
        match asmMnemonic l name ops with
        | none => .error .unknownMnemonic
        | some none => .error .badOperands
        | some (some is) => .ok (l, is)

/-- Lines in order, from layout l on: each line is read under the layout the most recent `.layout` line named (R109).
The command words in order. -/
def asmLines : Layout → List (List Char) → Except AsmError (List CmdWord)
  | _, [] => .ok []
  | l, line :: rest =>
    match asmLine l line with
    | .error e => .error e
    | .ok (l', is) =>
      match asmLines l' rest with
      | .error e => .error e
      | .ok ws => .ok (is.map encode ++ ws)

/-- A program: its lines from the default layout BANK0 on (R109). -/
def asmProgram (lines : List (List Char)) : Except AsmError (List CmdWord) := asmLines .bank0 lines

/-! ## The sample programs' command line (R112) -/

/-- The options, as the shell gives them: an absent option is none. -/
structure CliOptions where
  /-- `-d` or `--device`, a path `/dev/i2c-<n>`, as its bus index (R100). -/
  device : Option Byte
  /-- `-a` or `--address`, as given. -/
  address : Option (List Char)
  /-- `-1` or `--bank1`. -/
  bank1 : Bool
  /-- `-h` or `--help`. -/
  help : Bool
  deriving DecidableEq, Repr

/-- What the sample program does with its options. -/
inductive CliAction where
  /-- Print usage and exit with success. -/
  | usage
  /-- Report a malformed address and exit with failure; no INIT is issued. -/
  | badAddress
  /-- Issue this INIT. -/
  | issue (i : Instr)
  deriving DecidableEq, Repr

/-- INIT's flags from the options (R112). -/
def cliFlg (o : CliOptions) : Byte :=
  (if o.bank1 then 0x01 else 0x00) ||| (if o.address.isSome then 0x02 else 0x00)
    ||| (if o.device.isSome then 0x04 else 0x00)

/-- The command line mapped onto INIT (R112). R112 gives `-h` an exit with success and a malformed `--address` one with
failure; where both are given, `-h` wins (DESIGN CHOICE, log entry 14). -/
def cliAction (o : CliOptions) : CliAction :=
  if o.help then .usage
  else
    match o.address with
    | none => .issue (.init 0 (cliFlg o) (o.device.getD 0))
    | some text =>
      match parseNum (text.map Char.toUpper) with
      | none => .badAddress
      | some a => .issue (.init a (cliFlg o) (o.device.getD 0))

end Sys2Proof.Machine
end

