-- ==== Sys2Proof/Machine/Wire.lean ====
section
/-! DEFINITION. The framing of the two data transactions on the wire (spec/20_memory.md R66 to R68). The record of
bus operations `State.log` determines it; no register value depends on it. -/

namespace Sys2Proof.Machine

open Sys2Proof

/-- One symbol of a transaction on the wire. -/
inductive WireSym where
  | start
  | restart
  | stop
  /-- A byte the master sends. -/
  | master (b : Byte)
  /-- A byte the target drives. -/
  | target (b : Byte)
  /-- The target's ACK. -/
  | ack
  /-- The target's NACK where an ACK was expected. -/
  | nack
  /-- The master's NACK after the data byte of a read. -/
  | masterNack
  deriving DecidableEq, Repr

/-- The address byte `(S.slave << 1) | RW`, RW = 0 for write and 1 for read (R68). -/
def addrByte (slave : BusAddr) (rd : Bool) : Byte :=
  slave.setWidth 8 <<< 1 ||| (if rd then 1 else 0)

/-- A byte's bits in the order they are sent, most significant first (R68). -/
def wireBits (b : Byte) : List Bool := [7, 6, 5, 4, 3, 2, 1, 0].map fun i => b.getLsbD i

/-- SMBus Read Byte Data (R66). -/
def readFrame (slave : BusAddr) (addr v : Byte) : List WireSym :=
  [.start, .master (addrByte slave false), .ack, .master addr, .ack,
   .restart, .master (addrByte slave true), .ack, .target v, .masterNack, .stop]

/-- SMBus Write Byte Data (R67). -/
def writeFrame (slave : BusAddr) (addr v : Byte) : List WireSym :=
  [.start, .master (addrByte slave false), .ack, .master addr, .ack, .master v, .ack, .stop]

/-- The frame up to its n-th expected ACK, which is a NACK instead (R68). -/
def cutAtNack : Nat → List WireSym → List WireSym
  | _, [] => []
  | 0, .ack :: _ => [.nack]
  | n + 1, .ack :: rest => .ack :: cutAtNack n rest
  | n, s :: rest => s :: cutAtNack n rest

/-- The wire symbols of an entry of the record, where the spec states them: a completed or NACKed data transaction
of the Engine. -/
def BusEvent.wire : BusEvent → Option (List WireSym)
  | .transfer slave (.read addr) .ok (some v) => some (readFrame slave addr v)
  | .transfer slave (.write addr v) .ok _ => some (writeFrame slave addr v)
  | .transfer slave (.read addr) (.nack n) _ => some (cutAtNack n (readFrame slave addr 0))
  | .transfer slave (.write addr v) (.nack n) _ => some (cutAtNack n (writeFrame slave addr v))
  | .transfer _ _ _ _ => none
  | .control _ _ => none
  | .accessor _ => none

end Sys2Proof.Machine
end

