-- ==== Sys2Proof/Safety.lean ====
section
/-! DEFINITION. The terms claims use: the three named premises of spec/00_scope.md R9 (decision D35) and the parts of
them that one command needs, when an initialised session and its Target fit together, the session invariant, and the
state a completed command leaves. -/

namespace Sys2Proof.Machine

open Sys2Proof

/-! ## The premises (R9, decision D35), each about the rest of the run -/

/-- `BusReliable`: every transaction to `TARGET_ADDR` (R69) and every BIND of a legal address (R81) completes `ok`. A
transaction to another address is a free draw still. -/
abbrev BusReliable (s : State) : Prop := ∀ k, (s.drawAt k).outcome = .ok ∧ (s.drawAt k).bind = true

/-- `NoOtherAccessor`: no other accessor acts, inside a command or between commands (R42). -/
abbrev NoOtherAccessor (s : State) : Prop :=
  (∀ k, (s.drawAt k).before = []) ∧ ∀ tx, Event.accessor tx ∉ s.agenda

/-- `NoPinContention`: each output pin reads back its latch bit (R35). -/
abbrev NoPinContention (s : State) : Prop := ∀ k, (s.drawAt k).contention = 0

/-! ## What one command needs of a premise: its next n draws -/

/-- Of `BusReliable`: the transactions to `TARGET_ADDR` among the next n draws complete `ok`. -/
abbrev TransactionsOk (n : Nat) (s : State) : Prop := ∀ k, k < n → (s.drawAt k).outcome = .ok

/-- Of `NoOtherAccessor`: no other accessor acts before the transactions among the next n draws. -/
abbrev NoAccessorWithin (n : Nat) (s : State) : Prop := ∀ k, k < n → (s.drawAt k).before = []

/-- Of `NoPinContention`: output pins read back their latch in the next n draws. -/
abbrev NoContentionWithin (n : Nat) (s : State) : Prop := ∀ k, k < n → (s.drawAt k).contention = 0

/-! ## Session and Target -/

/-- The Engine's layout agrees with the chip bank (R41). -/
def layoutAgrees (s : State) : Bool :=
  match s.session.layout with
  | .none => false
  | .bank0 => !s.target.bank
  | .bank1 => s.target.bank

/-- An initialised session whose layout agrees with the chip bank and whose Target answers (R41, R69, R244). -/
abbrev SessionUp (s : State) : Prop :=
  s.session.init = true ∧ layoutAgrees s = true ∧ s.targetAnswers = true

/-- A session that is up, and the next n transactions complete `ok` with no other accessor between them. -/
abbrev Ready (n : Nat) (s : State) : Prop := SessionUp s ∧ TransactionsOk n s ∧ NoAccessorWithin n s

/-- No Target answers the session's next transaction: it goes to another address (R69), or to a Target that is held in
reset or comes up and does not answer again with this draw (R243). -/
def State.unanswered (s : State) : Bool :=
  !s.addressesTarget || (s.target.comeUp s.draw.answers).availability != .answering

/-- The direction check of a valid code passes: the pin's IODIR bit is 0 (R192). Under `IsOutBTypoCompat` it always
passes for GPB0 and GPB1, and for GPB2 to GPB7 when IODIRB bit 0 is 0 (R193, R256). -/
def testsAsOutput (s : State) (bit : Byte) : Bool :=
  if s.par.isOutBTypoCompat && decide (0x09 ≤ bit.toNat) then
    decide (bit.toNat ≤ 0x0a) || !s.target.iodirB.getLsbD 0
  else !(s.target.iodir (bitPort bit)).getLsbD (bitOff bit)

/-! ## The session invariant -/

/-- In a BUSY state past INIT's second operation of a session that is not yet initialised, the handle is open. -/
def busyInitHasHandle (s : State) : Bool :=
  match s.phase with
  | .busy w (_ :: _ :: _) => opcField w != 0x01 || s.session.init || s.session.handleOpen
  | .busy _ _ => true
  | .idle => true
  | .hung => true

/-- An initialised session has an open handle (R23) and a layout, an uninitialised one has none (R24). -/
abbrev SessionInv (s : State) : Prop :=
  (s.session.init = true → s.session.handleOpen = true) ∧
  (s.session.init = true → s.session.layout ≠ .none) ∧
  (s.session.init = false → s.session.layout = .none) ∧
  busyInitHasHandle s = true

/-! ## The state after a completed command -/

/-- The state a command leaves that used n draws, did `events` on the bus, left the Target as `t`, and answered
STATUS `st` and DATA `data`: every other part of the state, the session `S` among them, is as before. -/
def State.afterCommand (s : State) (n : Nat) (events : List BusEvent) (t : Target) (st : Status) (data : Byte) : State :=
  { s with
    phase := .idle
    target := t
    draws := s.draws.drop n
    drawn := s.drawn + n
    responses := s.responses ++ [rspWord st data]
    log := s.log ++ events }

/-- The record of an `ok` read of address a that returned v. -/
def readEvent (s : State) (a v : Byte) : BusEvent := .transfer s.session.slave (.read a) .ok (some v)

/-- The record of an `ok` write of v to address a. -/
def writeEvent (s : State) (a v : Byte) : BusEvent := .transfer s.session.slave (.write a v) .ok none

/-- The record of a read of address a that failed with outcome o. -/
def failedReadEvent (s : State) (a : Byte) (o : TxOutcome) : BusEvent := .transfer s.session.slave (.read a) o none

/-- The record of a write of v to address a that failed with outcome o. -/
def failedWriteEvent (s : State) (a v : Byte) (o : TxOutcome) : BusEvent :=
  .transfer s.session.slave (.write a v) o none

/-- The outcome is a failure (R68, R69). -/
def outcomeFailed (o : TxOutcome) : Bool :=
  match o with
  | .ok => false
  | .nack _ => true
  | .fail => true
  | .hang => false

/-- The record of a transaction that never completed (R29, R69). -/
def isHang (e : BusEvent) : Bool :=
  match e with
  | .transfer _ _ .hang _ => true
  | .transfer _ _ .ok _ => false
  | .transfer _ _ (.nack _) _ => false
  | .transfer _ _ .fail _ => false
  | .control _ _ => false
  | .accessor _ => false

/-! ## Where a command stores -/

/-- The register addresses a command may store to, in the session's layout (R51, R58). -/
def storeAddrs (i : Instr) (s : State) : List Byte :=
  match i with
  | .init _ flg _ => if flgAlt flg then [ioconAddr] else []
  | .cleanup => []
  | .valreg _ => []
  | .readreg _ => []
  | .getreg _ => []
  | .writereg reg _ => [reg]
  | .setones reg mask => if mask = 0 then [] else [reg]
  | .setzeros reg mask => if mask = 0 then [] else [reg]
  | .setout maskA maskB =>
    (if maskA = 0 then [] else (addrOf s.session.layout (.iodir .a)).toList) ++
      (if maskB = 0 then [] else (addrOf s.session.layout (.iodir .b)).toList)
  | .setin maskA maskB =>
    (if maskA = 0 then [] else (addrOf s.session.layout (.iodir .a)).toList) ++
      (if maskB = 0 then [] else (addrOf s.session.layout (.iodir .b)).toList)
  | .wrporta _ => (addrOf s.session.layout (.gpio .a)).toList
  | .wrportb _ => (addrOf s.session.layout (.gpio .b)).toList
  | .rdporta => []
  | .rdportb => []
  | .isout _ => []
  | .setbit bit => if validBit bit then (addrOf s.session.layout (.gpio (bitPort bit))).toList else []
  | .clrbit bit => if validBit bit then (addrOf s.session.layout (.gpio (bitPort bit))).toList else []

/-- The storage register behind a decoded register: a GPIO write goes to the latch (R31, R65). -/
def storageOf (r : TargetReg) : TargetReg :=
  match r with
  | .data (.gpio p) => .data (.olat p)
  | .data (.iodir p) => .data (.iodir p)
  | .data (.olat p) => .data (.olat p)
  | .iocon => .iocon

end Sys2Proof.Machine
end

