-- ==== Sys2Proof/Certificates/Slice0/Obligations.lean ====
section
/-! DEFINITION. The statements about the model, for the provers. Each docstring names the rules of spec/ it
formalises. -/

open Sys2Proof Sys2Proof.Machine

/-! ## Encoding -/

/-- R92 to R95, R105 (the encoding is the spec's decision D2, D3): a well-formed command's word decodes to it. -/
def Obligations.DecodeOfEncode : Prop :=
  ∀ i : Instr, i.wellFormed = true → decode (encode i) = .ok i

/-- R94, R105: a word that decodes to a command is that command's word, bit for bit; don't-care bits (SLA, BUS) are
kept as operands. -/
def Obligations.EncodeOfDecode : Prop :=
  ∀ (w : CmdWord) (i : Instr), decode w = .ok i → i.wellFormed = true ∧ encode i = w

/-- R95: a word is command X iff `cmd & mask(X) == match(X)`, and the seventeen opcodes and masks are the map's. -/
def Obligations.MaskAndMatchDecideTheCommand : Prop :=
  (∀ (w : CmdWord) (x : Instr),
    w &&& formatMask x.format = x.matchWord ↔ ∃ i, decode w = .ok i ∧ i.opcode = x.opcode) ∧
  [Instr.init 0 0 0, .cleanup, .valreg 0, .readreg 0, .getreg 0, .writereg 0 0, .setones 0 0, .setzeros 0 0,
    .setout 0 0, .setin 0 0, .wrporta 0, .wrportb 0, .rdporta, .rdportb, .isout 0, .setbit 0, .clrbit 0].map
      (fun i => (i.opcode, formatMask i.format)) =
    [(0x01, 0xFF00F800), (0x02, 0xFFFFFFFF), (0x10, 0xFF00FFFF), (0x11, 0xFF00FFFF), (0x12, 0xFF00FFFF),
      (0x13, 0xFF0000FF), (0x14, 0xFF0000FF), (0x15, 0xFF0000FF), (0x20, 0xFF0000FF), (0x21, 0xFF0000FF),
      (0x22, 0xFF00FFFF), (0x23, 0xFF00FFFF), (0x24, 0xFFFFFFFF), (0x25, 0xFFFFFFFF), (0x30, 0xFF00FFFF),
      (0x31, 0xFF00FFFF), (0x32, 0xFF00FFFF)]

/-- Words of spec/95_test_vectors.md (V-E17, V-E8, V-R3, V-P1, V-P11, V-B1, P1) decode to the commands they stand for,
and V-E4, V-E7, V-E14 are illegal. -/
def Obligations.SpecWordsDecode : Prop :=
  decode 0x01210700 = .ok (.init 0x21 0x07 0x00) ∧ decode 0x01550000 = .ok (.init 0x55 0x00 0x00) ∧
  decode 0x13015500 = .ok (.writereg 0x01 0x55) ∧ decode 0x20F00F00 = .ok (.setout 0xF0 0x0F) ∧
  decode 0x22A50000 = .ok (.wrporta 0xA5) ∧ decode 0x31100000 = .ok (.setbit 0x10) ∧
  decode 0x24000000 = .ok .rdporta ∧ decode 0x02000001 = .error (.reservedBitSet 0x02) ∧
  decode 0x01000800 = .error (.reservedBitSet 0x01) ∧ decode 0x33010000 = .error (.unassignedOpcode 0x33)

/-- R101, R102: a word that fits no command's mask and match is answered with 0x0700, in every session state; no
transaction, and nothing else changes. -/
def Obligations.IllegalCommandAnswered : Prop :=
  rspWord .illegalCommand 0x00 = 0x0700 ∧
  ∀ (s : State) (w : CmdWord) (rest : List Event), s.agenda = .submit w :: rest → s.phase = .idle → s.exited = false →
    (∀ i : Instr, w &&& formatMask i.format ≠ i.matchWord) →
    step s = .next (({ s with agenda := rest } : State).afterCommand 0 [] s.target .illegalCommand 0x00)

/-! ## Steps -/

/-- R18, R29: a submitted word that decodes to a command is run as that command, on the state whose agenda no longer
holds the submission. -/
def Obligations.StepRunsDecodedCommand : Prop :=
  ∀ (s : State) (w : CmdWord) (rest : List Event) (i : Instr), s.agenda = .submit w :: rest → s.phase = .idle →
    s.exited = false → decode w = .ok i → step s = exec i { s with agenda := rest }

/-- R29, R83, R258: the command run one operation at a time, through BUSY(cmd, 0), BUSY(cmd, 1), ..., ends within
seven moves of the Engine exactly where the command run as a whole ends. -/
def Obligations.OperationsOneByOneAgreeWithWholeCommand : Prop :=
  ∀ (s : State) (w : CmdWord), s.phase = .idle → engineMoves 7 (s.setPhase (.busy w [])) = runWord w s

/-- R29, R255: a HUNG Engine stays HUNG, emits nothing and keeps its session, whatever moves; only an Engine reset
ends it. -/
def Obligations.HungStaysHung : Prop :=
  ∀ s t : State, s.phase = .hung → (∀ rest, s.agenda ≠ .engineReset :: rest) → step s = .next t →
    t.phase = .hung ∧ t.responses = s.responses ∧ t.session = s.session ∧ t.exited = s.exited

/-- R18, R132 (treatment U15, U16): a command to an Engine that is not IDLE, or after a process exit with the hook
registered, and a process exit while the Engine is not IDLE, have no move. That a command after an exit without the hook
has none either is the model's, DEDUCED, log entry 8: R132 speaks of an exit with the hook only. -/
def Obligations.NoMoveOutsideIdle : Prop :=
  ∀ (s : State) (w : CmdWord) (rest : List Event),
    (s.agenda = .submit w :: rest ∨ s.agenda = .start w :: rest →
      (s.exited = true → step s = .refused .submitAfterExit) ∧
      (s.exited = false → s.phase ≠ .idle → step s = .refused .submitNotIdle)) ∧
    (s.agenda = .exit :: rest → s.phase ≠ .idle → step s = .refused .exitNotIdle)

/-- R29, R223, R255: of any command that answers a next state, either a transaction never completed, the Engine is HUNG
and no response was emitted, or none hung and the Engine is IDLE. Then, command by command, the first transaction of
each that has one (INIT's comes after OPEN, FUNCS and BIND, see `InitAltFailsAtBankUpdate`), and the write of SETONES
and SETZEROS: nothing but the draws and the record has changed. That a write which never completes leaves the Target is
DEDUCED, log entry 6. -/
def Obligations.HangGivesNoResponse : Prop :=
  (∀ (i : Instr) (s t : State), exec i s = .next t →
    ∃ l, (∀ e ∈ l, isHang e = false) ∧
      ((t.phase = .idle ∧ t.log = s.log ++ l) ∨
        (t.phase = .hung ∧ t.responses = s.responses ∧
          ∃ slave op, t.log = s.log ++ l ++ [.transfer slave op .hang none]))) ∧
  ∀ (reg val v : Byte) (r : LogReg) (s : State), SessionUp s → addrOf s.session.layout r = some reg →
    let hung (n : Nat) (l : List BusEvent) : Host.Outcome State Fault Refusal := .next
      { s with phase := .hung, draws := s.draws.drop n, drawn := s.drawn + n, log := s.log ++ l }
    let hungRead := hung 1 [failedReadEvent s reg .hang]
    let hungWrite := hung 1 [failedWriteEvent s reg val .hang]
    (NoAccessorWithin 1 s → (s.drawAt 0).outcome = .hang →
      exec (.readreg reg) s = hungRead ∧ exec (.getreg reg) s = hungRead ∧ exec (.writereg reg val) s = hungWrite ∧
      (val ≠ 0 → exec (.setones reg val) s = hungRead ∧ exec (.setzeros reg val) s = hungRead) ∧
      (r = .gpio .a → exec .rdporta s = hungRead ∧ exec (.wrporta val) s = hungWrite) ∧
      (r = .gpio .b → exec .rdportb s = hungRead ∧ exec (.wrportb val) s = hungWrite) ∧
      (r = .iodir .a → val ≠ 0 → ∀ mb, exec (.setout val mb) s = hungRead ∧ exec (.setin val mb) s = hungRead) ∧
      (r = .iodir .b → val ≠ 0 → exec (.setout 0 val) s = hungRead ∧ exec (.setin 0 val) s = hungRead) ∧
      ∀ bit, validBit bit = true → r = .iodir (bitPort bit) →
        exec (.isout bit) s = hungRead ∧ exec (.setbit bit) s = hungRead ∧ exec (.clrbit bit) s = hungRead) ∧
    (NoAccessorWithin 2 s → TransactionsOk 1 s → (s.drawAt 1).outcome = .hang → val ≠ 0 →
      v = s.target.read (.data r) (s.drawAt 0).pins (s.drawAt 0).contention →
      exec (.setones reg val) s = hung 2 [readEvent s reg v, failedWriteEvent s reg (v ||| val) .hang] ∧
      exec (.setzeros reg val) s = hung 2 [readEvent s reg v, failedWriteEvent s reg (v &&& ~~~ val) .hang])

/-! ## Invariants and whole-machine rules -/

/-- R23, R24: every step keeps the session invariant. -/
def Obligations.StepKeepsSessionInvariant : Prop :=
  ∀ s t : State, SessionInv s → step s = .next t → SessionInv t

/-- R21, R23, R24: the session invariant holds at reset. -/
def Obligations.SessionInvariantAtReset : Prop := SessionInv State.reset

/-- R9: no step changes a parameter of the run. -/
def Obligations.StepKeepsParameters : Prop :=
  ∀ s t : State, step s = .next t → t.par = s.par

/-- R22, R24, R25: no command but INIT and CLEANUP writes any field of the session. -/
def Obligations.OnlySessionCommandsWriteSession : Prop :=
  ∀ (i : Instr) (s t : State), (∀ sla flg bus, i ≠ .init sla flg bus) → i ≠ .cleanup → exec i s = .next t →
    t.session = s.session

/-- R29, R91, R113, R210: a command that ends emits exactly one response, with DATA 0x00 when the status is an error,
and leaves the Engine IDLE; one that hangs emits none. The record only grows; parameters and agenda stay. -/
def Obligations.OneResponseOrHung : Prop :=
  ∀ (i : Instr) (s t : State), exec i s = .next t →
    ((t.phase = .idle ∧ ∃ st data, t.responses = s.responses ++ [rspWord st data] ∧ (st ≠ .ok → data = 0x00)) ∨
      (t.phase = .hung ∧ t.responses = s.responses)) ∧
    (∃ l, t.log = s.log ++ l) ∧ t.par = s.par ∧ t.agenda = s.agenda ∧ t.exited = s.exited

/-- R103, R105, R223 (c): no command is ever refused. -/
def Obligations.NoCommandIsRefused : Prop :=
  ∀ (i : Instr) (s : State) (r : Refusal), exec i s ≠ .refused r

/-- R62: with the layout in agreement with the chip bank and no other accessor, no command meets the model fault.
Before INIT no layout is needed. -/
def Obligations.NoFaultWhileLayoutAgrees : Prop :=
  ∀ (i : Instr) (s : State), (s.session.init = true → layoutAgrees s = true) → NoAccessorWithin 4 s →
    ∀ f : Fault, exec i s ≠ .fault f

/-- R51, R58, R65, R70: every command, whatever its transactions' outcomes, leaves every storage register of the Target
as it was that no address of `storeAddrs` reaches under the chip bank it started in. -/
def Obligations.CommandsStoreOnlyAtTheirAddresses : Prop :=
  ∀ (i : Instr) (s t : State), NoAccessorWithin 4 s → exec i s = .next t →
    (t.target.availability = s.target.availability ∨
      (s.target.availability = .comingUp ∧ t.target.availability = .answering)) ∧
    ∀ q : TargetReg, storageOf q = q → (∀ a ∈ storeAddrs i s, (s.target.decode a).map storageOf ≠ some q) →
      t.target.read q 0 0 = s.target.read q 0 0

/-! ## Reset and the other agents -/

/-- R241: Engine reset gives every field of `S` that has one its reset value and the phase IDLE; it touches neither
Target nor bus, and afterwards the Engine waits. -/
def Obligations.EngineResetEvent : Prop :=
  (∀ (s : State) (rest : List Event), s.agenda = .engineReset :: rest →
    ∃ t, step s = .next t ∧ t.session.init = false ∧ t.session.layout = .none ∧ t.session.handleOpen = false ∧
      t.session.pathOwned = false ∧ t.session.hookRegistered = false ∧ t.phase = .idle ∧ t.target = s.target ∧
      t.log = s.log ∧ t.responses = s.responses) ∧
  ∀ s : State, s.phase = .idle → s.agenda = [] → step s = .next s

/-- R32, R38, R240, R242 (IODIRB, OLATA, OLATB and IOCON bits 6..0 are the spec's general knowledge G7), R243: power-on
and a low-then-high pulse of the reset line give the registers their reset values and leave the session. The Target
then answers no transaction until the Environment lets it (log entry 5). -/
def Obligations.TargetResetEvents : Prop :=
  ∀ (s : State) (rest : List Event),
    (s.agenda = .targetPowerOn :: rest → step s = .next { s with
      agenda := rest
      target := ⟨0xFF, 0xFF, 0x00, 0x00, 0x00,
        if s.target.availability = .heldInReset then .heldInReset else .comingUp⟩ }) ∧
    (s.agenda = .resetLineLow :: .resetLineHigh :: rest → ∃ t, step s = .next t ∧
      t.target.availability = .heldInReset ∧
      step t = .next { s with agenda := rest, target := ⟨0xFF, 0xFF, 0x00, 0x00, 0x00, .comingUp⟩ }) ∧
    (s.agenda = .targetAnswersAgain :: rest → s.target.availability = .comingUp → step s = .next { s with
      agenda := rest
      target := { s.target with availability := .answering } }) ∧
    (s.target.availability = .heldInReset ∨ s.target.availability = .comingUp → s.targetAnswers = false)

/-- R132 (decision D26): process exit with the hook registered performs CLEANUP without a response; without the hook
it changes no session, and no command is accepted afterwards either (both the model's, DEDUCED, log entry 8). -/
def Obligations.ProcessExitEndsSession : Prop :=
  ∀ (s : State) (rest : List Event), s.agenda = .exit :: rest → s.phase = .idle → s.exited = false →
    (s.session.hookRegistered = true → s.session.init = true → s.session.handleOpen = true → step s = .next { s with
      agenda := rest
      exited := true
      session := { s.session with init := false, pathOwned := false, handleOpen := false, layout := .none }
      draws := s.draws.drop 1
      drawn := s.drawn + 1
      log := s.log ++ [.control .close (if (s.drawAt 0).ctrl then .ok else .fail)] }) ∧
    (s.session.hookRegistered = false ∨ s.session.init = false → step s = .next { s with
      agenda := rest, exited := true })

/-- R42, R65, R74: another accessor's write between commands takes effect as the Engine's would, and touches no field of
the session. Two clauses are the model's, DEDUCED, and no rule states them: an accessor's write outside the decode is
the model fault (log entry 10), and a Target that does not answer sees nothing of an accessor's write (log entry 5). -/
def Obligations.AccessorWriteBetweenCommands : Prop :=
  ∀ (s : State) (a v : Byte) (rest : List Event), s.agenda = .accessor (.write a v) :: rest →
    (s.target.availability = .answering →
      (∀ r, s.target.decode a = some r → step s = .next { s with
        agenda := rest, target := s.target.write r v, log := s.log ++ [.accessor (.write a v)] }) ∧
      (s.target.decode a = none → step s = .fault (.unmodelledTargetRegister a))) ∧
    (s.target.availability ≠ .answering → step s = .next { s with
      agenda := rest, log := s.log ++ [.accessor (.write a v)] })

/-! ## The Target -/

/-- R59, R60: the addresses each chip bank decodes, and no others. -/
def Obligations.TargetDecodesListedAddresses : Prop :=
  ∀ (t : Target) (a : Byte),
    (t.bank = false → t.decode a =
      if a = 0x00 then some (.data (.iodir .a)) else if a = 0x01 then some (.data (.iodir .b))
      else if a = 0x0a then some .iocon else if a = 0x12 then some (.data (.gpio .a))
      else if a = 0x13 then some (.data (.gpio .b)) else if a = 0x14 then some (.data (.olat .a))
      else if a = 0x15 then some (.data (.olat .b)) else none) ∧
    (t.bank = true → t.decode a =
      if a = 0x00 then some (.data (.iodir .a)) else if a = 0x10 then some (.data (.iodir .b))
      else if a = 0x09 then some (.data (.gpio .a)) else if a = 0x19 then some (.data (.gpio .b))
      else if a = 0x0a then some (.data (.olat .a)) else if a = 0x1a then some (.data (.olat .b)) else none)

/-- R35, R64: bit i of a GPIO read is the pin where IODIR is 1, else the latch bit unless the pin is contended; without
contention the read is `(IODIR & PIN) | (~IODIR & OLAT)`. -/
def Obligations.GpioReadMultiplexes : Prop :=
  (∀ (t : Target) (p : Port) (pins contention : Byte) (i : Nat), i < 8 →
    (t.read (.data (.gpio p)) pins contention).getLsbD i =
      if (t.iodir p).getLsbD i then pins.getLsbD i else ((t.olat p).getLsbD i ^^ contention.getLsbD i)) ∧
  ∀ (t : Target) (p : Port) (pins : Byte),
    t.read (.data (.gpio p)) pins 0 = (t.iodir p &&& pins) ||| (~~~ t.iodir p &&& t.olat p)

/-- R37, R65, R178: a GPIO write changes the latch and no direction; input pins stay undriven, output pins follow the
written byte. -/
def Obligations.GpioWriteDrivesOutputsOnly : Prop :=
  ∀ (t : Target) (p q : Port) (v : Byte) (i : Nat),
    (t.write (.data (.gpio p)) v).olat p = v ∧ (t.write (.data (.gpio p)) v).iodir q = t.iodir q ∧
    (t.write (.data (.gpio p)) v).drive p i =
      if (t.iodir p).getLsbD i then .hiz else if v.getLsbD i then .high else .low

/-- R250, R251: a session whose layout disagrees with the chip bank faults at every data address but IODIRA's, which is
the same in both, and (in a BANK1 session on a chip in bank 0) 0x0a, which reads IOCON. That the fault comes whatever
outcome is drawn for the read is the model's, DEDUCED, log entry 10. -/
def Obligations.BankMismatchFaults : Prop :=
  ∀ (reg : Byte) (s : State), s.session.init = true → s.targetAnswers = true → NoAccessorWithin 1 s →
    (s.session.layout = .bank0 → s.target.bank = true → reg ∈ [0x01, 0x12, 0x13, 0x14, 0x15] →
      exec (.readreg reg) s = .fault (.unmodelledTargetRegister reg)) ∧
    (s.session.layout = .bank1 → s.target.bank = false → reg ∈ [0x10, 0x09, 0x19, 0x1a] →
      exec (.readreg reg) s = .fault (.unmodelledTargetRegister reg)) ∧
    (s.session.layout = .bank1 → s.target.bank = false → TransactionsOk 1 s →
      exec (.readreg 0x0a) s =
        .next (s.afterCommand 1 [readEvent s 0x0a s.target.iocon] s.target .ok s.target.iocon)) ∧
    (s.session.layout ≠ .none → TransactionsOk 1 s →
      exec (.readreg 0x00) s =
        .next (s.afterCommand 1 [readEvent s 0x00 s.target.iodirA] s.target .ok s.target.iodirA))

/-- R66 to R68 (the spec's general knowledge G2, G3): the address byte is `(slave << 1) | RW`, and the frames of a
completed read and write. -/
def Obligations.WireFrames : Prop :=
  (∀ (a : BusAddr) (rd : Bool), (addrByte a rd).toNat = 2 * a.toNat + (if rd then 1 else 0)) ∧
  ∀ (s : State) (a v : Byte),
    (readEvent s a v).wire = some [.start, .master (addrByte s.session.slave false), .ack, .master a, .ack, .restart,
      .master (addrByte s.session.slave true), .ack, .target v, .masterNack, .stop] ∧
    (writeEvent s a v).wire = some [.start, .master (addrByte s.session.slave false), .ack, .master a, .ack,
      .master v, .ack, .stop]

/-! ## Session commands -/

/-- R120, R121, R125, R126 for INIT without ALT: with OPEN, FUNCS, both capabilities and BIND good, the session is open
in layout BANK0; no Target transaction is issued. -/
def Obligations.InitOpensBank0Session : Prop :=
  ∀ (sla flg bus a b : Byte) (s : State), a = (if flg.getLsbD 1 then sla else 0x20) →
    b = (if flg.getLsbD 2 then bus else 1) → s.session.init = false → flg.getLsbD 0 = false →
    openOK s.par b = true → (s.drawAt 0).ctrl = true → capsOf s.par b = ⟨true, true⟩ → a.toNat ≤ 0x7F →
    (s.drawAt 1).bind = true →
    exec (.init sla flg bus) s = .next { s.afterCommand 3
        [.control (.openBus b) .ok, .control .funcs (.caps ⟨true, true⟩), .control (.bind a) .ok] s.target .ok 0x00 with
      session := ⟨true, b, flg.getLsbD 2, a.setWidth 7, true, .bank0,
        s.session.hookRegistered || (s.drawAt 2).ctrl⟩ }

/-- R120, R127, R249 for INIT with ALT: the read-modify-write at 0x0a sets bit 7 of IOCON when the chip is in bank 0, and
of OLATA when it is already in bank 1; the session is open in layout BANK1. -/
def Obligations.InitAltSwitchesBank : Prop :=
  ∀ (sla flg bus a b v : Byte) (s : State), a = (if flg.getLsbD 1 then sla else 0x20) →
    b = (if flg.getLsbD 2 then bus else 1) → s.session.init = false → flg.getLsbD 0 = true →
    openOK s.par b = true → (s.drawAt 0).ctrl = true → capsOf s.par b = ⟨true, true⟩ → a.toNat ≤ 0x7F →
    (s.drawAt 1).bind = true → a.setWidth 7 = s.par.targetAddr → s.target.availability = .answering →
    (∀ k, 2 ≤ k → k < 4 → (s.drawAt k).outcome = .ok ∧ (s.drawAt k).before = []) →
    v = (if s.target.bank then s.target.olatA else s.target.iocon) →
    exec (.init sla flg bus) s = .next { s.afterCommand 5
        [.control (.openBus b) .ok, .control .funcs (.caps ⟨true, true⟩), .control (.bind a) .ok,
          .transfer (a.setWidth 7) (.read 0x0a) .ok (some v),
          .transfer (a.setWidth 7) (.write 0x0a (v ||| 0x80)) .ok none]
        (if s.target.bank then { s.target with olatA := s.target.olatA ||| 0x80 }
          else { s.target with iocon := s.target.iocon ||| 0x80 }) .ok 0x00 with
      session := ⟨true, b, flg.getLsbD 2, a.setWidth 7, true, .bank1,
        s.session.hookRegistered || (s.drawAt 4).ctrl⟩ }

/-- R122, R216: INIT while a session is initialised answers ALREADY_INITIALIZED (0x06), issues no transaction and changes
no field of `S`. -/
def Obligations.InitWhileInitialisedRejected : Prop :=
  rspWord .alreadyInitialized 0x00 = 0x0600 ∧
  ∀ (sla flg bus : Byte) (s : State), s.session.init = true →
    exec (.init sla flg bus) s = .next (s.afterCommand 0 [] s.target .alreadyInitialized 0x00)

/-- R120, R124, R211, R212, R219: where INIT fails before it touches the Target: OPEN, FUNCS, a missing capability, BIND
(an address above 0x7F among its failures). -/
def Obligations.InitFailsBeforeTarget : Prop :=
  ∀ (sla flg bus a b : Byte) (s : State), a = (if flg.getLsbD 1 then sla else 0x20) →
    b = (if flg.getLsbD 2 then bus else 1) → s.session.init = false →
    let closed (k : Nat) : BusEvent := .control .close (if (s.drawAt k).ctrl then .ok else .fail)
    let aborted : Session := { s.session with bus := b, pathOwned := false, handleOpen := false, layout := .none }
    (openOK s.par b = false →
      exec (.init sla flg bus) s = .next { s.afterCommand 0 [.control (.openBus b) .fail] s.target .ioError 0x00 with
        session := { s.session with bus := b, pathOwned := false } }) ∧
    (openOK s.par b = true → (s.drawAt 0).ctrl = false →
      exec (.init sla flg bus) s = .next { s.afterCommand 2
          [.control (.openBus b) .ok, .control .funcs .fail, closed 1] s.target .ioError 0x00 with
        session := aborted }) ∧
    (openOK s.par b = true → (s.drawAt 0).ctrl = true → capsOf s.par b ≠ ⟨true, true⟩ →
      exec (.init sla flg bus) s = .next { s.afterCommand 2
          [.control (.openBus b) .ok, .control .funcs (.caps (capsOf s.par b)), closed 1]
          s.target .capabilityError 0x00 with
        session := aborted }) ∧
    (openOK s.par b = true → (s.drawAt 0).ctrl = true → capsOf s.par b = ⟨true, true⟩ →
      (0x7F < a.toNat ∨ (s.drawAt 1).bind = false) →
      exec (.init sla flg bus) s = .next { s.afterCommand 3
          [.control (.openBus b) .ok, .control .funcs (.caps ⟨true, true⟩), .control (.bind a) .fail, closed 2]
          s.target .ioError 0x00 with
        session := aborted })

/-- R123: whatever fails, a failed INIT of a session that was closed leaves it closed: no handle, no owned path, no
layout. -/
def Obligations.FailedInitLeaksNothing : Prop :=
  ∀ (sla flg bus : Byte) (s t : State), s.session.init = false → s.session.handleOpen = false →
    s.session.layout = .none → exec (.init sla flg bus) s = .next t → t.phase = .idle → t.session.init = false →
    t.session.handleOpen = false ∧ t.session.pathOwned = false ∧ t.session.layout = .none

/-- R131: CLEANUP of an open session closes the handle and ends the session, of one without a handle ends it without a
CLOSE, of an uninitialised one does nothing; it answers OK and leaves the Target and the hook. -/
def Obligations.CleanupEndsSession : Prop :=
  encode .cleanup = 0x02000000 ∧
  ∀ s : State,
    (s.session.init = true → s.session.handleOpen = true →
      exec .cleanup s = .next { s.afterCommand 1
          [.control .close (if (s.drawAt 0).ctrl then .ok else .fail)] s.target .ok 0x00 with
        session := { s.session with init := false, pathOwned := false, handleOpen := false, layout := .none } }) ∧
    (s.session.init = true → s.session.handleOpen = false →
      exec .cleanup s = .next { s.afterCommand 0 [] s.target .ok 0x00 with
        session := { s.session with init := false, pathOwned := false, layout := .none } }) ∧
    (s.session.init = false → exec .cleanup s = .next (s.afterCommand 0 [] s.target .ok 0x00))

/-! ## Checks -/

/-- R215: an uninitialised session answers NOT_INITIALIZED with no transaction, to the commands R215 lists; VALREG and
ISOUT answer 0x00, CLEANUP answers OK, INIT goes on to OPEN. SETOUT and SETIN with both masks zero answer OK, or
NOT_INITIALIZED where `ZeroMaskFirst` is false (R169, R170, R171, R219). -/
def Obligations.NotInitializedAnswers : Prop :=
  rspWord .notInitialized 0x00 = 0x0500 ∧
  ∀ s : State, s.session.init = false →
    (∀ i : Instr,
      ((∃ reg, i = .readreg reg) ∨ (∃ reg, i = .getreg reg) ∨ (∃ reg val, i = .writereg reg val) ∨
        (∃ val, i = .wrporta val) ∨ (∃ val, i = .wrportb val) ∨ i = .rdporta ∨ i = .rdportb ∨
        (∃ bit, i = .setbit bit) ∨ (∃ bit, i = .clrbit bit) ∨
        (∃ reg mask, mask ≠ 0 ∧ i = .setones reg mask) ∨ (∃ reg mask, mask ≠ 0 ∧ i = .setzeros reg mask) ∨
        (∃ ma mb, (ma ≠ 0 ∨ mb ≠ 0) ∧ i = .setout ma mb) ∨ (∃ ma mb, (ma ≠ 0 ∨ mb ≠ 0) ∧ i = .setin ma mb)) →
      exec i s = .next (s.afterCommand 0 [] s.target .notInitialized 0x00)) ∧
    (∀ i : Instr, i = .setout 0x00 0x00 ∨ i = .setin 0x00 0x00 → exec i s =
      .next (s.afterCommand 0 [] s.target (if s.par.zeroMaskFirst then .ok else .notInitialized) 0x00)) ∧
    (∀ bit, exec (.isout bit) s = .next (s.afterCommand 0 [] s.target .ok 0x00)) ∧
    (s.session.layout = .none → ∀ reg, exec (.valreg reg) s = .next (s.afterCommand 0 [] s.target .ok 0x00)) ∧
    exec .cleanup s = .next (s.afterCommand 0 [] s.target .ok 0x00) ∧
    ∀ sla flg bus t, exec (.init sla flg bus) s = .next t →
      ∃ b r rest, t.log = s.log ++ .control (.openBus b) r :: rest

/-- R57, R141, R213: an initialised session answers INVALID_REGISTER to a command with a REG operand outside the active
layout, with no transaction. -/
def Obligations.InvalidRegisterAnswers : Prop :=
  ∀ (reg val : Byte) (s : State), s.session.init = true → (∀ r, addrOf s.session.layout r ≠ some reg) →
    let answer : Host.Outcome State Fault Refusal := .next (s.afterCommand 0 [] s.target .invalidRegister 0x00)
    exec (.readreg reg) s = answer ∧ exec (.getreg reg) s = answer ∧ exec (.writereg reg val) s = answer ∧
    (val ≠ 0 → exec (.setones reg val) s = answer ∧ exec (.setzeros reg val) s = answer)

/-- R148: SETONES and SETZEROS with MASK = 0x00 answer OK with no transaction before any other check when `ZeroMaskFirst`
is true (the default), and after `requireInit` and `requireValid` when it is false. -/
def Obligations.ZeroMaskSkips : Prop :=
  State.reset.par.zeroMaskFirst = true ∧
  ∀ (reg : Byte) (s : State),
    let answer (st : Status) : Host.Outcome State Fault Refusal := .next (s.afterCommand 0 [] s.target st 0x00)
    let expected : Status :=
      if s.par.zeroMaskFirst then .ok else if s.session.init = false then .notInitialized
      else if validAddr s.session.layout reg then .ok else .invalidRegister
    exec (.setones reg 0x00) s = answer expected ∧ exec (.setzeros reg 0x00) s = answer expected

/-! ## Register access -/

/-- R56, R142 (an uninitialised session answers 0x00 by decision D9): VALREG answers 0x01 exactly for the six addresses
of the active layout, with no transaction and in every state. -/
def Obligations.ValregTestsActiveLayout : Prop :=
  ∀ (reg : Byte) (s : State), exec (.valreg reg) s = .next (s.afterCommand 0 [] s.target .ok
    (if (s.session.layout = .bank0 ∧ reg ∈ [0x00, 0x01, 0x12, 0x13, 0x14, 0x15]) ∨
        (s.session.layout = .bank1 ∧ reg ∈ [0x00, 0x10, 0x09, 0x19, 0x0a, 0x1a]) then 0x01 else 0x00))

/-- R63, R143, R144: READREG and GETREG of a logical register return it by one read and change nothing of the Target.
Where no Target answers (another address is bound, or the Target is in reset or coming up) an `ok` read answers the
drawn byte (R69, R243). That a Target comes up after a power-on as after a reset pulse, and then leaves the byte to the
draw even under `BusReliable`, is the model's, DEDUCED, log entry 5. -/
def Obligations.ReadregReturnsRegister : Prop :=
  ∀ (reg v : Byte) (r : LogReg) (s : State), s.session.init = true → addrOf s.session.layout r = some reg →
    NoAccessorWithin 1 s → s.txOutcome = .ok →
    (layoutAgrees s = true ∧ s.targetAnswers = true ∧
        v = s.target.read (.data r) (s.drawAt 0).pins (s.drawAt 0).contention ∨
      s.unanswered = true ∧ v = (s.drawAt 0).byte) →
    exec (.readreg reg) s = .next (s.afterCommand 1 [readEvent s reg v] s.target .ok v) ∧
    exec (.getreg reg) s = .next (s.afterCommand 1 [readEvent s reg v] s.target .ok v)

/-- R65, R145: WRITEREG writes the register by one write; a GPIO address writes all eight latch bits. A write to another
address than `TARGET_ADDR` leaves the Target as it was (R69). That a write to a Target held in reset or coming up leaves
it as it was too is the model's, DEDUCED, log entry 5: R243 gives such a write its drawn completion only. -/
def Obligations.WriteregWritesRegister : Prop :=
  ∀ (reg val : Byte) (p : Port) (s : State),
    (Ready 1 s → addrOf s.session.layout (.iodir p) = some reg → exec (.writereg reg val) s =
      .next (s.afterCommand 1 [writeEvent s reg val] (s.target.setIodir p val) .ok 0x00)) ∧
    (Ready 1 s → addrOf s.session.layout (.olat p) = some reg ∨ addrOf s.session.layout (.gpio p) = some reg →
      exec (.writereg reg val) s =
        .next (s.afterCommand 1 [writeEvent s reg val] (s.target.setOlat p val) .ok 0x00)) ∧
    ∀ r, addrOf s.session.layout r = some reg → s.session.init = true → s.unanswered = true → NoAccessorWithin 1 s →
      (s.txOutcome = .ok → exec (.writereg reg val) s =
        .next (s.afterCommand 1 [writeEvent s reg val] s.target .ok 0x00)) ∧
      (outcomeFailed s.txOutcome = true → exec (.writereg reg val) s =
        .next (s.afterCommand 1 [failedWriteEvent s reg val s.txOutcome] s.target .ioError 0x00))

/-- R146, R149: SETONES with a nonzero mask reads the register and writes old OR mask to the same address; on a GPIO
address the pin levels read go to the latch. -/
def Obligations.SetonesSetsBits : Prop :=
  ∀ (reg mask v : Byte) (r : LogReg) (s : State), Ready 2 s → mask ≠ 0 → addrOf s.session.layout r = some reg →
    v = s.target.read (.data r) (s.drawAt 0).pins (s.drawAt 0).contention →
    exec (.setones reg mask) s = .next (s.afterCommand 2 [readEvent s reg v, writeEvent s reg (v ||| mask)]
      (s.target.write (.data r) (v ||| mask)) .ok 0x00)

/-- R147, R149: SETZEROS, mirrored: old AND NOT mask. -/
def Obligations.SetzerosClearsBits : Prop :=
  ∀ (reg mask v : Byte) (r : LogReg) (s : State), Ready 2 s → mask ≠ 0 → addrOf s.session.layout r = some reg →
    v = s.target.read (.data r) (s.drawAt 0).pins (s.drawAt 0).contention →
    exec (.setzeros reg mask) s = .next (s.afterCommand 2 [readEvent s reg v, writeEvent s reg (v &&& ~~~ mask)]
      (s.target.write (.data r) (v &&& ~~~ mask)) .ok 0x00)

/-- R150: on a storage register, SETONES then SETZEROS with one mask leaves old AND NOT mask. -/
def Obligations.SetonesThenSetzeros : Prop :=
  ∀ (reg mask : Byte) (r : LogReg) (s : State), Ready 4 s → mask ≠ 0 → (∀ p, r ≠ .gpio p) →
    addrOf s.session.layout r = some reg →
    ∃ t u, exec (.setones reg mask) s = .next t ∧ exec (.setzeros reg mask) t = .next u ∧
      u.target = s.target.write (.data r) (s.target.read (.data r) 0 0 &&& ~~~ mask)

/-- R71, R211, R219: a failed read answers IO_ERROR, and a read-modify-write then issues no write: one transaction, and
the Target is unchanged. -/
def Obligations.FailedReadAnswersIoError : Prop :=
  ∀ (reg mask : Byte) (r : LogReg) (s : State), SessionUp s → NoAccessorWithin 1 s →
    outcomeFailed (s.drawAt 0).outcome = true → addrOf s.session.layout r = some reg → mask ≠ 0 →
    let answer : Host.Outcome State Fault Refusal :=
      .next (s.afterCommand 1 [failedReadEvent s reg (s.drawAt 0).outcome] s.target .ioError 0x00)
    exec (.readreg reg) s = answer ∧ exec (.getreg reg) s = answer ∧ exec (.setones reg mask) s = answer ∧
    exec (.setzeros reg mask) s = answer ∧ (r = .gpio .a → exec .rdporta s = answer) ∧
    (r = .gpio .b → exec .rdportb s = answer)

/-- R70, R145, R146, R147, R211: a failed write answers IO_ERROR; the register is written or not, as the Environment
draws. For the commands with a VAL or a MASK that end in a write: WRITEREG, WRPORTA, WRPORTB, SETONES, SETZEROS
(`SetoutPartialFailure` and `SetbitIoErrors` state it for the rest). -/
def Obligations.FailedWriteMayLand : Prop :=
  ∀ (reg val v : Byte) (r : LogReg) (s : State), SessionUp s → addrOf s.session.layout r = some reg →
    let after (k : Nat) (x : Byte) : Target := if (s.drawAt k).wrote then s.target.write (.data r) x else s.target
    let answer : Host.Outcome State Fault Refusal :=
      .next (s.afterCommand 1 [failedWriteEvent s reg val (s.drawAt 0).outcome] (after 0 val) .ioError 0x00)
    let answerRmw (x : Byte) : Host.Outcome State Fault Refusal :=
      .next (s.afterCommand 2 [readEvent s reg v, failedWriteEvent s reg x (s.drawAt 1).outcome] (after 1 x)
        .ioError 0x00)
    (NoAccessorWithin 1 s → outcomeFailed (s.drawAt 0).outcome = true →
      exec (.writereg reg val) s = answer ∧ (r = .gpio .a → exec (.wrporta val) s = answer) ∧
      (r = .gpio .b → exec (.wrportb val) s = answer)) ∧
    (NoAccessorWithin 2 s → TransactionsOk 1 s → outcomeFailed (s.drawAt 1).outcome = true → val ≠ 0 →
      v = s.target.read (.data r) (s.drawAt 0).pins (s.drawAt 0).contention →
      exec (.setones reg val) s = answerRmw (v ||| val) ∧ exec (.setzeros reg val) s = answerRmw (v &&& ~~~ val))

/-- R75, R248: another accessor's write to the register between SETONES's read and write is lost. -/
def Obligations.AccessorUpdateIsLost : Prop :=
  ∀ (reg mask x v : Byte) (r : LogReg) (s : State), SessionUp s → TransactionsOk 2 s → mask ≠ 0 →
    addrOf s.session.layout r = some reg → (s.drawAt 0).before = [] → (s.drawAt 1).before = [.write reg x] →
    v = s.target.read (.data r) (s.drawAt 0).pins (s.drawAt 0).contention →
    exec (.setones reg mask) s = .next (s.afterCommand 2
      [readEvent s reg v, .accessor (.write reg x), writeEvent s reg (v ||| mask)]
      (s.target.write (.data r) (v ||| mask)) .ok 0x00)

/-! ## Direction and ports -/

/-- R170, R173: SETOUT clears the direction bits set in its masks, port A then port B, one read and one write for each
port with a nonzero mask, and leaves every other bit. -/
def Obligations.SetoutClearsDirectionBits : Prop :=
  ∀ (ma mb b newA newB : Byte) (s : State), Ready 4 s → addrOf s.session.layout (.iodir .b) = some b →
    newA = s.target.iodirA &&& ~~~ ma → newB = s.target.iodirB &&& ~~~ mb →
    exec (.setout ma mb) s = .next (s.afterCommand ((if ma = 0 then 0 else 2) + (if mb = 0 then 0 else 2))
      ((if ma = 0 then [] else [readEvent s 0x00 s.target.iodirA, writeEvent s 0x00 newA]) ++
        (if mb = 0 then [] else [readEvent s b s.target.iodirB, writeEvent s b newB]))
      { s.target with iodirA := newA, iodirB := newB } .ok 0x00)

/-- R171, R173: SETIN, mirrored. -/
def Obligations.SetinSetsDirectionBits : Prop :=
  ∀ (ma mb b newA newB : Byte) (s : State), Ready 4 s → addrOf s.session.layout (.iodir .b) = some b →
    newA = s.target.iodirA ||| ma → newB = s.target.iodirB ||| mb →
    exec (.setin ma mb) s = .next (s.afterCommand ((if ma = 0 then 0 else 2) + (if mb = 0 then 0 else 2))
      ((if ma = 0 then [] else [readEvent s 0x00 s.target.iodirA, writeEvent s 0x00 newA]) ++
        (if mb = 0 then [] else [readEvent s b s.target.iodirB, writeEvent s b newB]))
      { s.target with iodirA := newA, iodirB := newB } .ok 0x00)

/-- R172, R220, R252 (a port-A failure ends the command by decision D13): SETOUT and SETIN failing on the way. A failed
port-B read or write answers IO_ERROR and port A's change stays; after a failed port-A read or write port B is not
attempted. A port with a zero mask has no transaction. -/
def Obligations.SetoutPartialFailure : Prop :=
  ∀ (ma mb b newA newB : Byte) (n : Nat) (i : Instr) (s : State), SessionUp s → NoAccessorWithin 4 s →
    addrOf s.session.layout (.iodir .b) = some b →
    (i = .setout ma mb ∧ newA = s.target.iodirA &&& ~~~ ma ∧ newB = s.target.iodirB &&& ~~~ mb) ∨
      (i = .setin ma mb ∧ newA = s.target.iodirA ||| ma ∧ newB = s.target.iodirB ||| mb) →
    n = (if ma = 0 then 0 else 2) →
    let portA : List BusEvent :=
      if ma = 0 then [] else [readEvent s 0x00 s.target.iodirA, writeEvent s 0x00 newA]
    (mb ≠ 0 → TransactionsOk n s → outcomeFailed (s.drawAt n).outcome = true →
      exec i s = .next (s.afterCommand (n + 1) (portA ++ [failedReadEvent s b (s.drawAt n).outcome])
        { s.target with iodirA := newA } .ioError 0x00)) ∧
    (mb ≠ 0 → TransactionsOk (n + 1) s → outcomeFailed (s.drawAt (n + 1)).outcome = true →
      exec i s = .next (s.afterCommand (n + 2)
        (portA ++ [readEvent s b s.target.iodirB, failedWriteEvent s b newB (s.drawAt (n + 1)).outcome])
        { s.target with
          iodirA := newA
          iodirB := if (s.drawAt (n + 1)).wrote then newB else s.target.iodirB } .ioError 0x00)) ∧
    (ma ≠ 0 → outcomeFailed (s.drawAt 0).outcome = true →
      exec i s = .next (s.afterCommand 1 [failedReadEvent s 0x00 (s.drawAt 0).outcome] s.target .ioError 0x00)) ∧
    (ma ≠ 0 → TransactionsOk 1 s → outcomeFailed (s.drawAt 1).outcome = true →
      exec i s = .next (s.afterCommand 2
        [readEvent s 0x00 s.target.iodirA, failedWriteEvent s 0x00 newA (s.drawAt 1).outcome]
        { s.target with iodirA := if (s.drawAt 1).wrote then newA else s.target.iodirA } .ioError 0x00))

/-- R65, R174, R175: WRPORTA and WRPORTB store the byte in the port's latch by one write to the layout's GPIO address, with
no read before it. -/
def Obligations.WriteportStoresLatch : Prop :=
  ∀ (val : Byte) (s : State), Ready 1 s →
    exec (.wrporta val) s = .next (s.afterCommand 1
      [writeEvent s (if s.session.layout = .bank0 then 0x12 else 0x09) val]
      { s.target with olatA := val } .ok 0x00) ∧
    exec (.wrportb val) s = .next (s.afterCommand 1
      [writeEvent s (if s.session.layout = .bank0 then 0x13 else 0x19) val]
      { s.target with olatB := val } .ok 0x00)

/-- R64, R176, R177: RDPORTA and RDPORTB answer the pins of input bits and the latch of output bits, by one read of the
layout's GPIO address. -/
def Obligations.ReadportReadsPinsAndLatch : Prop :=
  ∀ (s : State) (va vb : Byte), Ready 1 s → NoContentionWithin 1 s →
    va = (s.target.iodirA &&& (s.drawAt 0).pins) ||| (~~~ s.target.iodirA &&& s.target.olatA) →
    vb = (s.target.iodirB &&& (s.drawAt 0).pins) ||| (~~~ s.target.iodirB &&& s.target.olatB) →
    exec .rdporta s = .next (s.afterCommand 1
      [readEvent s (if s.session.layout = .bank0 then 0x12 else 0x09) va] s.target .ok va) ∧
    exec .rdportb s = .next (s.afterCommand 1
      [readEvent s (if s.session.layout = .bank0 then 0x13 else 0x19) vb] s.target .ok vb)

/-! ## Single-bit commands -/

/-- R190, R191, R193: a valid code's port and offset, and the direction mask `1 << o`. -/
def Obligations.BitCodesResolve : Prop :=
  (∀ b : Byte, validBit b = true ↔ 0x01 ≤ b.toNat ∧ b.toNat ≤ 0x10) ∧
  (∀ b : Byte, validBit b = true → bitOff b < 8 ∧
    (b.toNat < 0x09 → bitPort b = .a ∧ bitOff b = b.toNat - 0x01) ∧
    (0x09 ≤ b.toNat → bitPort b = .b ∧ bitOff b = b.toNat - 0x09)) ∧
  ∀ (p : Port) (o : Nat), o < 8 → (dirMask false p o).toNat = 2 ^ o

/-- R192 (the 0x00 answers by decision D10): ISOUT answers 0x01 exactly when the pin's IODIR bit reads 0, by one read
(`IsOutBTypoCompat` false; `TypoOptionTestsBitZero` states the other case); whatever the option, an uninitialised
session or an invalid code answers 0x00 with no transaction, a failed read 0x00 after one. -/
def Obligations.IsoutAnswersDirection : Prop :=
  ∀ (bit a : Byte) (s : State),
    (Ready 1 s → s.par.isOutBTypoCompat = false → validBit bit = true →
      addrOf s.session.layout (.iodir (bitPort bit)) = some a →
      exec (.isout bit) s = .next (s.afterCommand 1 [readEvent s a (s.target.iodir (bitPort bit))] s.target .ok
        (if (s.target.iodir (bitPort bit)).getLsbD (bitOff bit) then 0x00 else 0x01))) ∧
    (s.session.init = false ∨ validBit bit = false →
      exec (.isout bit) s = .next (s.afterCommand 0 [] s.target .ok 0x00)) ∧
    (SessionUp s → NoAccessorWithin 1 s → outcomeFailed (s.drawAt 0).outcome = true → validBit bit = true →
      addrOf s.session.layout (.iodir (bitPort bit)) = some a →
      exec (.isout bit) s = .next (s.afterCommand 1 [failedReadEvent s a (s.drawAt 0).outcome] s.target .ok 0x00))

/-- R194, R197, R256: SETBIT of a pin that passes the direction check (`testsAsOutput`: an output pin; under
`IsOutBTypoCompat` as R193 has it) reads the direction, reads the latch and writes the port, and leaves the latch with
the pin's bit set and the other seven as they were. -/
def Obligations.SetbitSetsLatchBit : Prop :=
  ∀ (bit aDir aLatch aPort v : Byte) (p : Port) (s : State), Ready 3 s → validBit bit = true → p = bitPort bit →
    testsAsOutput s bit = true → addrOf s.session.layout (.iodir p) = some aDir →
    addrOf s.session.layout (.olat p) = some aLatch → addrOf s.session.layout (.gpio p) = some aPort →
    v = s.target.olat p ||| ((1 : Byte) <<< bitOff bit) →
    exec (.setbit bit) s = .next (s.afterCommand 3
      [readEvent s aDir (s.target.iodir p), readEvent s aLatch (s.target.olat p), writeEvent s aPort v]
      (s.target.setOlat p v) .ok 0x00)

/-- R195, R197, R256: CLRBIT, mirrored. -/
def Obligations.ClrbitClearsLatchBit : Prop :=
  ∀ (bit aDir aLatch aPort v : Byte) (p : Port) (s : State), Ready 3 s → validBit bit = true → p = bitPort bit →
    testsAsOutput s bit = true → addrOf s.session.layout (.iodir p) = some aDir →
    addrOf s.session.layout (.olat p) = some aLatch → addrOf s.session.layout (.gpio p) = some aPort →
    v = s.target.olat p &&& ~~~ ((1 : Byte) <<< bitOff bit) →
    exec (.clrbit bit) s = .next (s.afterCommand 3
      [readEvent s aDir (s.target.iodir p), readEvent s aLatch (s.target.olat p), writeEvent s aPort v]
      (s.target.setOlat p v) .ok 0x00)

/-- R196, R198, R214, R256: SETBIT and CLRBIT of a pin that fails the direction check (`testsAsOutput`: an input pin;
under `IsOutBTypoCompat` as R193 has it) answer DIRECTION_ERROR after exactly one read, of an invalid code with no
transaction, and after a failed direction read likewise; the Target is unchanged. -/
def Obligations.DirectionErrorChangesNothing : Prop :=
  ∀ (bit a : Byte) (i : Instr) (s : State), i = .setbit bit ∨ i = .clrbit bit → SessionUp s → NoAccessorWithin 1 s →
    (validBit bit = false → exec i s = .next (s.afterCommand 0 [] s.target .directionError 0x00)) ∧
    (validBit bit = true → addrOf s.session.layout (.iodir (bitPort bit)) = some a →
      (TransactionsOk 1 s → testsAsOutput s bit = false →
        exec i s = .next (s.afterCommand 1 [readEvent s a (s.target.iodir (bitPort bit))] s.target
          .directionError 0x00)) ∧
      (outcomeFailed (s.drawAt 0).outcome = true →
        exec i s = .next (s.afterCommand 1 [failedReadEvent s a (s.drawAt 0).outcome] s.target
          .directionError 0x00)))

/-- R194, R195, R211: SETBIT and CLRBIT after a direction check that passes: a failed latch read answers IO_ERROR with
the Target unchanged, and a failed port write answers IO_ERROR with the latch written or not. -/
def Obligations.SetbitIoErrors : Prop :=
  ∀ (bit aDir aLatch aPort v : Byte) (p : Port) (i : Instr) (s : State), SessionUp s → NoAccessorWithin 3 s →
    validBit bit = true → p = bitPort bit → testsAsOutput s bit = true →
    addrOf s.session.layout (.iodir p) = some aDir → addrOf s.session.layout (.olat p) = some aLatch →
    addrOf s.session.layout (.gpio p) = some aPort →
    (i = .setbit bit ∧ v = s.target.olat p ||| ((1 : Byte) <<< bitOff bit)) ∨
      (i = .clrbit bit ∧ v = s.target.olat p &&& ~~~ ((1 : Byte) <<< bitOff bit)) →
    (TransactionsOk 1 s → outcomeFailed (s.drawAt 1).outcome = true →
      exec i s = .next (s.afterCommand 2
        [readEvent s aDir (s.target.iodir p), failedReadEvent s aLatch (s.drawAt 1).outcome]
        s.target .ioError 0x00)) ∧
    (TransactionsOk 2 s → outcomeFailed (s.drawAt 2).outcome = true →
      exec i s = .next (s.afterCommand 3
        [readEvent s aDir (s.target.iodir p), readEvent s aLatch (s.target.olat p),
          failedWriteEvent s aPort v (s.drawAt 2).outcome]
        (if (s.drawAt 2).wrote then s.target.setOlat p v else s.target) .ioError 0x00))

/-- R199: after SETOUT 0xFF, 0xFF every valid code is an output; after SETIN 0xFF, 0xFF none is, but for GPB0 and GPB1
under `IsOutBTypoCompat`. -/
def Obligations.AllOutAllIn : Prop :=
  ∀ (bit : Byte) (s : State), Ready 5 s → validBit bit = true →
    (∃ t u, exec (.setout 0xFF 0xFF) s = .next t ∧ exec (.isout bit) t = .next u ∧
      u.responses = s.responses ++ [0x0000, 0x0001]) ∧
    (∃ t u, exec (.setin 0xFF 0xFF) s = .next t ∧ exec (.isout bit) t = .next u ∧
      u.responses = s.responses ++ [0x0000,
        if s.par.isOutBTypoCompat = true ∧ (bit = 0x09 ∨ bit = 0x0a) then 0x0001 else 0x0000])

/-- R193, R256: under `IsOutBTypoCompat` ISOUT of GPB0 and GPB1 answers 0x01 whatever IODIRB is, and ISOUT of GPB2 to GPB7
answers by IODIRB bit 0; port A is as without the option. -/
def Obligations.TypoOptionTestsBitZero : Prop :=
  ∀ (bit a : Byte) (s : State), Ready 1 s → s.par.isOutBTypoCompat = true → validBit bit = true →
    addrOf s.session.layout (.iodir (bitPort bit)) = some a →
    exec (.isout bit) s = .next (s.afterCommand 1 [readEvent s a (s.target.iodir (bitPort bit))] s.target .ok
      (if bit.toNat ≤ 0x08 then (if s.target.iodirA.getLsbD (bit.toNat - 1) then 0x00 else 0x01)
        else if bit.toNat ≤ 0x0a then 0x01
        else if s.target.iodirB.getLsbD 0 then 0x00 else 0x01))

/-! ## The assembler -/

/-- R110, R111, R148: NOP is the word 0x14000000 and answers OK with no transaction in every session state (under the
default `ZeroMaskFirst`); DUMP is the six GETREGs of the layout, in order. -/
def Obligations.PseudoCommands : Prop :=
  pseudoNop.map encode = [0x14000000] ∧
  pseudoDump .bank0 = [.getreg 0x00, .getreg 0x01, .getreg 0x12, .getreg 0x13, .getreg 0x14, .getreg 0x15] ∧
  pseudoDump .bank1 = [.getreg 0x00, .getreg 0x10, .getreg 0x09, .getreg 0x19, .getreg 0x0a, .getreg 0x1a] ∧
  ∀ (s : State) (i : Instr), s.par.zeroMaskFirst = true → i ∈ pseudoNop →
    exec i s = .next (s.afterCommand 0 [] s.target .ok 0x00)

/-! ## INIT's bank update failing -/

/-- R70, R120, R123, R127: INIT with ALT whose configuration-register read or write fails: IO_ERROR, one CLOSE,
`S.slave` already written, the handle closed, the path not owned, layout NONE; after a failed write the register at 0x0a
(IOCON, or OLATA on a chip already in bank 1) is written or not, as drawn. A read or a write that never completes leaves
the Engine HUNG with the handle open (R29); that a hung write leaves the Target is DEDUCED, log entry 6. -/
def Obligations.InitAltFailsAtBankUpdate : Prop :=
  ∀ (sla flg bus a b v : Byte) (s : State), a = (if flg.getLsbD 1 then sla else 0x20) →
    b = (if flg.getLsbD 2 then bus else 1) → s.session.init = false → flg.getLsbD 0 = true →
    openOK s.par b = true → (s.drawAt 0).ctrl = true → capsOf s.par b = ⟨true, true⟩ → a.toNat ≤ 0x7F →
    (s.drawAt 1).bind = true → a.setWidth 7 = s.par.targetAddr → s.target.availability = .answering →
    (s.drawAt 2).before = [] → (s.drawAt 3).before = [] →
    v = (if s.target.bank then s.target.olatA else s.target.iocon) →
    let opened : List BusEvent :=
      [.control (.openBus b) .ok, .control .funcs (.caps ⟨true, true⟩), .control (.bind a) .ok]
    let reading (o : TxOutcome) (got : Option Byte) : BusEvent := .transfer (a.setWidth 7) (.read 0x0a) o got
    let writing (o : TxOutcome) : BusEvent := .transfer (a.setWidth 7) (.write 0x0a (v ||| 0x80)) o none
    let closed (k : Nat) : BusEvent := .control .close (if (s.drawAt k).ctrl then .ok else .fail)
    let aborted : Session := { s.session with
      bus := b, pathOwned := false, slave := a.setWidth 7, handleOpen := false, layout := .none }
    let hung (n : Nat) (l : List BusEvent) : Host.Outcome State Fault Refusal := .next { s with
      phase := .hung
      session := { s.session with bus := b, pathOwned := flg.getLsbD 2, slave := a.setWidth 7, handleOpen := true }
      draws := s.draws.drop n
      drawn := s.drawn + n
      log := s.log ++ l }
    (outcomeFailed (s.drawAt 2).outcome = true →
      exec (.init sla flg bus) s = .next { s.afterCommand 4
          (opened ++ [reading (s.drawAt 2).outcome none, closed 3]) s.target .ioError 0x00 with
        session := aborted }) ∧
    ((s.drawAt 2).outcome = .ok → outcomeFailed (s.drawAt 3).outcome = true →
      exec (.init sla flg bus) s = .next { s.afterCommand 5
          (opened ++ [reading .ok (some v), writing (s.drawAt 3).outcome, closed 4])
          (if (s.drawAt 3).wrote then
            (if s.target.bank then { s.target with olatA := v ||| 0x80 } else { s.target with iocon := v ||| 0x80 })
          else s.target) .ioError 0x00 with
        session := aborted }) ∧
    ((s.drawAt 2).outcome = .hang → exec (.init sla flg bus) s = hung 3 (opened ++ [reading .hang none])) ∧
    ((s.drawAt 2).outcome = .ok → (s.drawAt 3).outcome = .hang →
      exec (.init sla flg bus) s = hung 4 (opened ++ [reading .ok (some v), writing .hang]))
end

