-- ==== Sys2Proof/Laws/Decode.lean ====
section
/-! SUPPORT. The fields of a packed word, and a word is its fields packed (spec/30_encoding.md R90). -/

namespace Sys2Proof

@[simp] theorem opcField_packWord (a b c d : Byte) : opcField (packWord a b c d) = a := by
  apply BitVec.eq_of_getElem_eq
  intro i hi
  have h1 : ¬ 24 + i < 24 := by omega
  have h2 : 24 + i - 16 ≥ 8 := by omega
  have h3 : 24 + i - 8 ≥ 8 := by omega
  have h4 : 24 + i ≥ 8 := by omega
  have h5 : 24 + i < 32 := by omega
  have h6 : i < 32 := by omega
  simp [opcField, packWord, BitVec.getLsbD_of_ge, *]

@[simp] theorem f1Field_packWord (a b c d : Byte) : f1Field (packWord a b c d) = b := by
  apply BitVec.eq_of_getElem_eq
  intro i hi
  have h1 : 16 + i < 24 := by omega
  have h2 : ¬ 16 + i < 16 := by omega
  have h3 : 16 + i - 8 ≥ 8 := by omega
  have h4 : 16 + i ≥ 8 := by omega
  have h5 : 16 + i < 32 := by omega
  have h6 : i < 32 := by omega
  simp [f1Field, packWord, BitVec.getLsbD_of_ge, *]

@[simp] theorem f2Field_packWord (a b c d : Byte) : f2Field (packWord a b c d) = c := by
  apply BitVec.eq_of_getElem_eq
  intro i hi
  have h1 : 8 + i < 24 := by omega
  have h2 : 8 + i < 16 := by omega
  have h3 : ¬ 8 + i < 8 := by omega
  have h4 : 8 + i ≥ 8 := by omega
  have h5 : 8 + i < 32 := by omega
  have h6 : i < 32 := by omega
  simp [f2Field, packWord, BitVec.getLsbD_of_ge, *]

@[simp] theorem f3Field_packWord (a b c d : Byte) : f3Field (packWord a b c d) = d := by
  apply BitVec.eq_of_getElem_eq
  intro i hi
  have h1 : i < 24 := by omega
  have h2 : i < 16 := by omega
  have h3 : i < 32 := by omega
  simp [f3Field, packWord, *]

theorem packWord_fields (w : CmdWord) : packWord (opcField w) (f1Field w) (f2Field w) (f3Field w) = w := by
  apply BitVec.eq_of_getElem_eq
  intro i hi
  have e : w.getLsbD i = w[i] := BitVec.getLsbD_eq_getElem hi
  simp only [packWord, opcField, f1Field, f2Field, f3Field, BitVec.getElem_or, BitVec.getElem_shiftLeft,
    BitVec.getElem_setWidth, BitVec.getLsbD_extractLsb']
  by_cases h1 : i < 8
  · simp [h1, e, show i < 24 by omega, show i < 16 by omega]
  by_cases h2 : i < 16
  · simp [h1, h2, e, show i < 24 by omega, show i - 8 < 8 by omega, show 8 + (i - 8) = i by omega]
  by_cases h3 : i < 24
  · simp [h1, h2, h3, e, show i - 16 < 8 by omega, show ¬ i - 8 < 8 by omega, show 16 + (i - 16) = i by omega]
  · simp [h1, h2, h3, e, show i - 24 < 8 by omega, show ¬ i - 8 < 8 by omega, show ¬ i - 16 < 8 by omega,
      show 24 + (i - 24) = i by omega]

/-- Masking a packed word masks its fields. -/
theorem packWord_and (a b c d a' b' c' d' : Byte) :
    packWord a b c d &&& packWord a' b' c' d' = packWord (a &&& a') (b &&& b') (c &&& c') (d &&& d') := by
  rw [← packWord_fields (packWord a b c d &&& packWord a' b' c' d')]
  have h (n : Nat) (x y : CmdWord) : (x &&& y).extractLsb' n 8 = x.extractLsb' n 8 &&& y.extractLsb' n 8 := by
    apply BitVec.eq_of_getElem_eq
    intro i hi
    simp
  have h0 (x y : CmdWord) : opcField (x &&& y) = opcField x &&& opcField y := h 24 x y
  have h1 (x y : CmdWord) : f1Field (x &&& y) = f1Field x &&& f1Field y := h 16 x y
  have h2 (x y : CmdWord) : f2Field (x &&& y) = f2Field x &&& f2Field y := h 8 x y
  have h3 (x y : CmdWord) : f3Field (x &&& y) = f3Field x &&& f3Field y := h 0 x y
  simp [h0, h1, h2, h3]

/-- Packed words are equal exactly when their fields are. -/
theorem packWord_inj {a b c d a' b' c' d' : Byte} :
    packWord a b c d = packWord a' b' c' d' ↔ a = a' ∧ b = b' ∧ c = c' ∧ d = d' := by
  constructor
  · intro h
    exact ⟨by simpa using congrArg opcField h, by simpa using congrArg f1Field h, by simpa using congrArg f2Field h,
      by simpa using congrArg f3Field h⟩
  · rintro ⟨rfl, rfl, rfl, rfl⟩
    rfl

/-- `mask(X)` by fields. -/
theorem formatMask_eq (f : Format) : formatMask f =
    match f with
    | .n => packWord 0xFF 0xFF 0xFF 0xFF
    | .r => packWord 0xFF 0x00 0xFF 0xFF
    | .rv => packWord 0xFF 0x00 0x00 0xFF
    | .m2 => packWord 0xFF 0x00 0x00 0xFF
    | .v => packWord 0xFF 0x00 0xFF 0xFF
    | .b => packWord 0xFF 0x00 0xFF 0xFF
    | .i => packWord 0xFF 0x00 0xF8 0x00 := by
  cases f <;> decide

/-- `match(X)` by fields. -/
theorem matchWord_eq (i : Instr) : i.matchWord = packWord i.opcode 0 0 0 := by
  simp [Instr.matchWord, packWord]

end Sys2Proof
end

