-- ==== Sys2Proof/Laws/State.lean ====
section
/-! SUPPORT. Reading a field after an update of the state, one lemma per field per update; the draws after an
update. -/

namespace Sys2Proof.Machine

open Sys2Proof

/-! ## mapSession -/

@[simp] theorem State.mapSession_session (s : State) (f : Session → Session) : (s.mapSession f).session = f s.session := rfl
@[simp] theorem State.mapSession_phase (s : State) (f : Session → Session) : (s.mapSession f).phase = s.phase := rfl
@[simp] theorem State.mapSession_exited (s : State) (f : Session → Session) : (s.mapSession f).exited = s.exited := rfl
@[simp] theorem State.mapSession_target (s : State) (f : Session → Session) : (s.mapSession f).target = s.target := rfl
@[simp] theorem State.mapSession_par (s : State) (f : Session → Session) : (s.mapSession f).par = s.par := rfl
@[simp] theorem State.mapSession_agenda (s : State) (f : Session → Session) : (s.mapSession f).agenda = s.agenda := rfl
@[simp] theorem State.mapSession_draws (s : State) (f : Session → Session) : (s.mapSession f).draws = s.draws := rfl
@[simp] theorem State.mapSession_drawn (s : State) (f : Session → Session) : (s.mapSession f).drawn = s.drawn := rfl
@[simp] theorem State.mapSession_responses (s : State) (f : Session → Session) : (s.mapSession f).responses = s.responses := rfl
@[simp] theorem State.mapSession_log (s : State) (f : Session → Session) : (s.mapSession f).log = s.log := rfl

/-! ## setTarget -/

@[simp] theorem State.setTarget_session (s : State) (t : Target) : (s.setTarget t).session = s.session := rfl
@[simp] theorem State.setTarget_phase (s : State) (t : Target) : (s.setTarget t).phase = s.phase := rfl
@[simp] theorem State.setTarget_exited (s : State) (t : Target) : (s.setTarget t).exited = s.exited := rfl
@[simp] theorem State.setTarget_target (s : State) (t : Target) : (s.setTarget t).target = t := rfl
@[simp] theorem State.setTarget_par (s : State) (t : Target) : (s.setTarget t).par = s.par := rfl
@[simp] theorem State.setTarget_agenda (s : State) (t : Target) : (s.setTarget t).agenda = s.agenda := rfl
@[simp] theorem State.setTarget_draws (s : State) (t : Target) : (s.setTarget t).draws = s.draws := rfl
@[simp] theorem State.setTarget_drawn (s : State) (t : Target) : (s.setTarget t).drawn = s.drawn := rfl
@[simp] theorem State.setTarget_responses (s : State) (t : Target) : (s.setTarget t).responses = s.responses := rfl
@[simp] theorem State.setTarget_log (s : State) (t : Target) : (s.setTarget t).log = s.log := rfl

/-! ## setPhase -/

@[simp] theorem State.setPhase_session (s : State) (p : Phase) : (s.setPhase p).session = s.session := rfl
@[simp] theorem State.setPhase_phase (s : State) (p : Phase) : (s.setPhase p).phase = p := rfl
@[simp] theorem State.setPhase_exited (s : State) (p : Phase) : (s.setPhase p).exited = s.exited := rfl
@[simp] theorem State.setPhase_target (s : State) (p : Phase) : (s.setPhase p).target = s.target := rfl
@[simp] theorem State.setPhase_par (s : State) (p : Phase) : (s.setPhase p).par = s.par := rfl
@[simp] theorem State.setPhase_agenda (s : State) (p : Phase) : (s.setPhase p).agenda = s.agenda := rfl
@[simp] theorem State.setPhase_draws (s : State) (p : Phase) : (s.setPhase p).draws = s.draws := rfl
@[simp] theorem State.setPhase_drawn (s : State) (p : Phase) : (s.setPhase p).drawn = s.drawn := rfl
@[simp] theorem State.setPhase_responses (s : State) (p : Phase) : (s.setPhase p).responses = s.responses := rfl
@[simp] theorem State.setPhase_log (s : State) (p : Phase) : (s.setPhase p).log = s.log := rfl

/-! ## record -/

@[simp] theorem State.record_session (s : State) (e : BusEvent) : (s.record e).session = s.session := rfl
@[simp] theorem State.record_phase (s : State) (e : BusEvent) : (s.record e).phase = s.phase := rfl
@[simp] theorem State.record_exited (s : State) (e : BusEvent) : (s.record e).exited = s.exited := rfl
@[simp] theorem State.record_target (s : State) (e : BusEvent) : (s.record e).target = s.target := rfl
@[simp] theorem State.record_par (s : State) (e : BusEvent) : (s.record e).par = s.par := rfl
@[simp] theorem State.record_agenda (s : State) (e : BusEvent) : (s.record e).agenda = s.agenda := rfl
@[simp] theorem State.record_draws (s : State) (e : BusEvent) : (s.record e).draws = s.draws := rfl
@[simp] theorem State.record_drawn (s : State) (e : BusEvent) : (s.record e).drawn = s.drawn := rfl
@[simp] theorem State.record_responses (s : State) (e : BusEvent) : (s.record e).responses = s.responses := rfl
@[simp] theorem State.record_log (s : State) (e : BusEvent) : (s.record e).log = s.log ++ [e] := rfl

/-! ## advance -/

@[simp] theorem State.advance_session (s : State) : (s.advance).session = s.session := rfl
@[simp] theorem State.advance_phase (s : State) : (s.advance).phase = s.phase := rfl
@[simp] theorem State.advance_exited (s : State) : (s.advance).exited = s.exited := rfl
@[simp] theorem State.advance_target (s : State) : (s.advance).target = s.target := rfl
@[simp] theorem State.advance_par (s : State) : (s.advance).par = s.par := rfl
@[simp] theorem State.advance_agenda (s : State) : (s.advance).agenda = s.agenda := rfl
@[simp] theorem State.advance_draws (s : State) : (s.advance).draws = s.draws.tail := rfl
@[simp] theorem State.advance_drawn (s : State) : (s.advance).drawn = s.drawn + 1 := rfl
@[simp] theorem State.advance_responses (s : State) : (s.advance).responses = s.responses := rfl
@[simp] theorem State.advance_log (s : State) : (s.advance).log = s.log := rfl

/-! ## respond -/

@[simp] theorem State.respond_session (s : State) (st : Status) (data : Byte) : (s.respond st data).session = s.session := rfl
@[simp] theorem State.respond_phase (s : State) (st : Status) (data : Byte) : (s.respond st data).phase = .idle := rfl
@[simp] theorem State.respond_exited (s : State) (st : Status) (data : Byte) : (s.respond st data).exited = s.exited := rfl
@[simp] theorem State.respond_target (s : State) (st : Status) (data : Byte) : (s.respond st data).target = s.target := rfl
@[simp] theorem State.respond_par (s : State) (st : Status) (data : Byte) : (s.respond st data).par = s.par := rfl
@[simp] theorem State.respond_agenda (s : State) (st : Status) (data : Byte) : (s.respond st data).agenda = s.agenda := rfl
@[simp] theorem State.respond_draws (s : State) (st : Status) (data : Byte) : (s.respond st data).draws = s.draws := rfl
@[simp] theorem State.respond_drawn (s : State) (st : Status) (data : Byte) : (s.respond st data).drawn = s.drawn := rfl
@[simp] theorem State.respond_responses (s : State) (st : Status) (data : Byte) : (s.respond st data).responses = s.responses ++ [rspWord st data] := rfl
@[simp] theorem State.respond_log (s : State) (st : Status) (data : Byte) : (s.respond st data).log = s.log := rfl

/-! ## Draws -/

@[simp] theorem State.advance_drawAt (s : State) (k : Nat) : s.advance.drawAt k = s.drawAt (k + 1) := by
  simp [State.drawAt, Nat.add_assoc, Nat.add_comm 1 k]

@[simp] theorem State.draw_eq (s : State) : s.draw = s.drawAt 0 := rfl

theorem State.drawAt_congr {s t : State} (hd : t.draws = s.draws) (hn : t.drawn = s.drawn) (k : Nat) :
    t.drawAt k = s.drawAt k := by
  simp [State.drawAt, hd, hn]

@[simp] theorem State.mapSession_drawAt (s : State) (f : Session → Session) (k : Nat) : (s.mapSession f).drawAt k = s.drawAt k := rfl
@[simp] theorem State.setTarget_drawAt (s : State) (t : Target) (k : Nat) : (s.setTarget t).drawAt k = s.drawAt k := rfl
@[simp] theorem State.setPhase_drawAt (s : State) (p : Phase) (k : Nat) : (s.setPhase p).drawAt k = s.drawAt k := rfl
@[simp] theorem State.record_drawAt (s : State) (e : BusEvent) (k : Nat) : (s.record e).drawAt k = s.drawAt k := rfl
@[simp] theorem State.respond_drawAt (s : State) (st : Status) (data : Byte) (k : Nat) : (s.respond st data).drawAt k = s.drawAt k := rfl

/-- The listed draws come first. -/
theorem State.drawAt_listed {s : State} {k : Nat} {d : Draw} (h : s.draws[k]? = some d) : s.drawAt k = d := by
  simp [State.drawAt, h]

end Sys2Proof.Machine
end

