-- ==== Sys2Proof/Laws/Target.lean ====
section
/-! SUPPORT. The Target's register FSM: what its decode answers for a layout's addresses, what a write leaves. -/

namespace Sys2Proof.Machine

open Sys2Proof

/-- An address of the layout that agrees with the chip bank reaches its logical register (R54, R55, R59, R60). -/
theorem decode_of_addrOf {s : State} {r : LogReg} {a : Byte} (hl : layoutAgrees s = true)
    (ha : addrOf s.session.layout r = some a) : s.target.decode a = some (.data r) := by
  unfold layoutAgrees at hl
  cases h : s.session.layout <;> simp [h, addrOf] at hl ha <;> subst ha <;>
    rcases r with (_ | _) | (_ | _) | (_ | _) <;> simp [Target.decode, hl, addrBank0, addrBank1] <;> decide

/-- A valid address is a logical register's (R13, R56). -/
theorem exists_of_validAddr {l : Layout} {a : Byte} (h : validAddr l a = true) : ∃ r, addrOf l r = some a := by
  simp only [validAddr, List.any_eq_true, beq_iff_eq] at h
  obtain ⟨r, -, hr⟩ := h
  exact ⟨r, hr⟩

/-- A logical register's address is valid (R13, R56). -/
theorem validAddr_of_addrOf {l : Layout} {r : LogReg} {a : Byte} (h : addrOf l r = some a) : validAddr l a = true := by
  simp only [validAddr, List.any_eq_true, beq_iff_eq]
  exact ⟨r, by rcases r with (_ | _) | (_ | _) | (_ | _) <;> simp [allLogRegs], h⟩

/-- The configuration register's bank-0 address is decoded in both chip banks (R61). -/
theorem decode_ioconAddr (t : Target) :
    t.decode ioconAddr = some (if t.bank then .data (.olat .a) else .iocon) := by
  cases h : t.bank <;> simp [Target.decode, h, ioconAddr] <;> decide

@[simp] theorem Target.write_availability (t : Target) (r : TargetReg) (v : Byte) :
    (t.write r v).availability = t.availability := by
  rcases r with ((_ | _) | (_ | _) | (_ | _)) | _ <;> rfl

/-! ## Coming up after a reset (R243) -/

/-- What coming up can do: nothing, or let a Target that came up answer; its registers stay. -/
theorem Target.comeUp_cases (t : Target) (b : Bool) :
    t.comeUp b = t ∨
      (b = true ∧ t.availability = .comingUp ∧ t.comeUp b = { t with availability := .answering }) := by
  unfold Target.comeUp
  split
  · simp_all
  · exact .inl rfl

/-- A Target that answers has nothing to come up from. -/
@[simp] theorem Target.comeUp_answering {t : Target} (h : t.availability = .answering) (b : Bool) : t.comeUp b = t := by
  simp [Target.comeUp, h]

/-- A Target that does not answer after it has not come up. -/
theorem Target.comeUp_not_answering {t : Target} {b : Bool} (h : (t.comeUp b).availability ≠ .answering) :
    t.comeUp b = t := by
  obtain h' | ⟨-, -, h'⟩ := t.comeUp_cases b
  · exact h'
  · rw [h'] at h
    exact absurd rfl h

@[simp] theorem Target.comeUp_bank (t : Target) (b : Bool) : (t.comeUp b).bank = t.bank := by
  unfold Target.comeUp
  split <;> rfl

@[simp] theorem Target.comeUp_decode (t : Target) (b : Bool) (a : Byte) : (t.comeUp b).decode a = t.decode a := by
  simp [Target.decode]

@[simp] theorem Target.comeUp_read (t : Target) (b : Bool) (r : TargetReg) (pins contention : Byte) :
    (t.comeUp b).read r pins contention = t.read r pins contention := by
  unfold Target.comeUp
  split <;> rcases r with ((_ | _) | (_ | _) | (_ | _)) | _ <;> rfl

/-! ## Writes -/

/-- A write of a data register leaves IOCON (R65). -/
@[simp] theorem Target.write_data_iocon (t : Target) (r : LogReg) (v : Byte) :
    (t.write (.data r) v).iocon = t.iocon := by
  rcases r with (_ | _) | (_ | _) | (_ | _) <;> rfl

/-- A write of a data register leaves the chip bank. -/
@[simp] theorem Target.write_data_bank (t : Target) (r : LogReg) (v : Byte) :
    (t.write (.data r) v).bank = t.bank := by
  simp [Target.bank]

@[simp] theorem Target.setIodir_iodir (t : Target) (p : Port) (v : Byte) : (t.setIodir p v).iodir p = v := by
  cases p <;> rfl

@[simp] theorem Target.setOlat_olat (t : Target) (p : Port) (v : Byte) : (t.setOlat p v).olat p = v := by
  cases p <;> rfl

@[simp] theorem Target.setOlat_iodir (t : Target) (p q : Port) (v : Byte) : (t.setOlat p v).iodir q = t.iodir q := by
  cases p <;> cases q <;> rfl

@[simp] theorem Target.setIodir_olat (t : Target) (p q : Port) (v : Byte) : (t.setIodir p v).olat q = t.olat q := by
  cases p <;> cases q <;> rfl

@[simp] theorem Target.setIodir_self (t : Target) (p : Port) : t.setIodir p (t.iodir p) = t := by
  cases p <;> rfl

@[simp] theorem Target.setOlat_self (t : Target) (p : Port) : t.setOlat p (t.olat p) = t := by
  cases p <;> rfl

/-- A GPIO read bit by bit (R35): the pin where IODIR is 1, else the latch, inverted where contended. -/
theorem Target.gpio_getLsbD (t : Target) (p : Port) (pins contention : Byte) {i : Nat} (hi : i < 8) :
    (t.gpio p pins contention).getLsbD i =
      if (t.iodir p).getLsbD i then pins.getLsbD i else ((t.olat p).getLsbD i ^^ contention.getLsbD i) := by
  simp only [Target.gpio, BitVec.getLsbD_or, BitVec.getLsbD_and, BitVec.getLsbD_not, BitVec.getLsbD_xor, hi]
  cases (t.iodir p).getLsbD i <;> simp

end Sys2Proof.Machine
end

