-- ==== Sys2Proof/Laws/Ops.lean ====
section
/-! SUPPORT. What each shared operation can do: other accessors, the Transport's operations, running a program. -/

namespace Sys2Proof.Machine

open Sys2Proof

/-! ## What the Transport's operations leave alone -/

/-- Everything but the Target, the draws and the record is unchanged, draws have only been used, and the record has
only grown. -/
structure OnlyBus (s t : State) : Prop where
  session : t.session = s.session
  phase : t.phase = s.phase
  exited : t.exited = s.exited
  par : t.par = s.par
  agenda : t.agenda = s.agenda
  responses : t.responses = s.responses
  draws : ∃ m, ∀ k, t.drawAt k = s.drawAt (m + k)
  log : ∃ l, t.log = s.log ++ l

theorem OnlyBus.refl (s : State) : OnlyBus s s := ⟨rfl, rfl, rfl, rfl, rfl, rfl, ⟨0, by simp⟩, [], by simp⟩

theorem OnlyBus.trans {s t u : State} (h : OnlyBus s t) (k : OnlyBus t u) : OnlyBus s u := by
  obtain ⟨l, hl⟩ := h.log
  obtain ⟨m, hm⟩ := k.log
  obtain ⟨i, hi⟩ := h.draws
  obtain ⟨j, hj⟩ := k.draws
  exact ⟨k.session.trans h.session, k.phase.trans h.phase, k.exited.trans h.exited, k.par.trans h.par,
    k.agenda.trans h.agenda, k.responses.trans h.responses, ⟨i + j, fun n => by rw [hj, hi, Nat.add_assoc]⟩,
    l ++ m, by rw [hm, hl, List.append_assoc]⟩

theorem onlyBus_advance (s : State) : OnlyBus s s.advance :=
  ⟨rfl, rfl, rfl, rfl, rfl, rfl, ⟨1, fun k => by simp [Nat.add_comm]⟩, [], by simp⟩

theorem onlyBus_record (s : State) (e : BusEvent) : OnlyBus s (s.record e) :=
  ⟨rfl, rfl, rfl, rfl, rfl, rfl, ⟨0, by simp⟩, [e], rfl⟩

theorem onlyBus_setTarget (s : State) (t : Target) : OnlyBus s (s.setTarget t) :=
  ⟨rfl, rfl, rfl, rfl, rfl, rfl, ⟨0, by simp⟩, [], by simp⟩

/-! ## Other accessors (R42) -/

/-- What another accessor's transaction can do: nothing to a Target that does not answer or by a read, one register write,
or the model fault. -/
theorem accessorTx_cases {tx : OtherTx} {s t : State} (h : s.accessorTx tx = .ok t) :
    ∃ tgt, t = (s.setTarget tgt).record (.accessor tx) ∧
      (tgt = s.target ∨ ∃ a v r, tx = .write a v ∧ s.target.decode a = some r ∧ tgt = s.target.write r v) := by
  have key : s.record (.accessor tx) = (s.setTarget s.target).record (.accessor tx) := rfl
  unfold State.accessorTx at h
  split at h
  · split at h <;> split at h <;> cases h
    · exact ⟨s.target, key, .inl rfl⟩
    · exact ⟨_, rfl, .inr ⟨_, _, _, rfl, ‹_›, rfl⟩⟩
  · cases h
    exact ⟨s.target, key, .inl rfl⟩

theorem onlyBus_accessorTx {tx : OtherTx} {s t : State} (h : s.accessorTx tx = .ok t) : OnlyBus s t := by
  obtain ⟨tgt, rfl, -⟩ := accessorTx_cases h
  exact (onlyBus_setTarget s tgt).trans (onlyBus_record _ _)

theorem onlyBus_accessorTxs {l : List OtherTx} {s t : State} (h : s.accessorTxs l = .ok t) : OnlyBus s t := by
  induction l generalizing s with
  | nil => cases h; exact .refl _
  | cons tx l ih =>
    simp only [State.accessorTxs] at h
    split at h
    · cases h
    · exact (onlyBus_accessorTx ‹_›).trans (ih h)

/-! ## The Transport's operations (R66 to R82) -/

theorem onlyBus_endRead {a v : Byte} {o : TxOutcome} {s t : State} {r : TxResult}
    (h : s.endRead a v o = .completed r t ∨ s.endRead a v o = .never t) : OnlyBus s t := by
  rcases h with h | h <;> cases o <;> cases h <;> exact onlyBus_record _ _

theorem onlyBus_endWrite {a v : Byte} {o : TxOutcome} {s t : State} {r : TxResult}
    (h : s.endWrite a v o = .completed r t ∨ s.endWrite a v o = .never t) : OnlyBus s t := by
  rcases h with h | h <;> cases o <;> cases h <;> exact onlyBus_record _ _

theorem onlyBus_beforeTx {s t : State} (h : s.beforeTx = .ok t) : OnlyBus s t := by
  unfold State.beforeTx at h
  split at h
  · exact ((onlyBus_advance s).trans (onlyBus_setTarget _ _)).trans (onlyBus_accessorTxs h)
  · exact (onlyBus_advance s).trans (onlyBus_accessorTxs h)

theorem onlyBus_memRead {a : Byte} {s t : State} {r : TxResult}
    (h : s.memRead a = .completed r t ∨ s.memRead a = .never t) : OnlyBus s t := by
  unfold State.memRead at h
  split at h
  · rcases h with h | h <;> cases h
  · have hb := onlyBus_beforeTx ‹_›
    split at h
    · split at h
      · rcases h with h | h <;> cases h
      · exact hb.trans (onlyBus_endRead h)
    · exact hb.trans (onlyBus_endRead h)

theorem onlyBus_memWrite {a v : Byte} {s t : State} {r : TxResult}
    (h : s.memWrite a v = .completed r t ∨ s.memWrite a v = .never t) : OnlyBus s t := by
  unfold State.memWrite at h
  split at h
  · rcases h with h | h <;> cases h
  · have hb := onlyBus_beforeTx ‹_›
    split at h
    · split at h
      · rcases h with h | h <;> cases h
      · split at h
        · exact (hb.trans (onlyBus_setTarget _ _)).trans (onlyBus_endWrite h)
        · exact hb.trans (onlyBus_endWrite h)
    · exact hb.trans (onlyBus_endWrite h)

/-- Whatever an operation does, it leaves the session, the sequencing state, the parameters, the agenda and the
responses, and the record only grows. -/
theorem onlyBus_perform {op : BusOp} {s t : State} {r : TxResult}
    (h : perform op s = .completed r t ∨ perform op s = .never t) : OnlyBus s t := by
  cases op with
  | openBus b => rcases h with h | h <;> cases h; exact onlyBus_record _ _
  | funcs => rcases h with h | h <;> cases h; exact (onlyBus_advance s).trans (onlyBus_record _ _)
  | bind a => rcases h with h | h <;> cases h; exact (onlyBus_advance s).trans (onlyBus_record _ _)
  | close => rcases h with h | h <;> cases h; exact (onlyBus_advance s).trans (onlyBus_record _ _)
  | read a => exact onlyBus_memRead h
  | write a v => exact onlyBus_memWrite h

/-! ## Transactions with no other accessor before them -/

/-- A Target that answers the session's transactions is at its address and answering. -/
theorem targetAnswers_iff (s : State) :
    s.targetAnswers = true ↔ s.addressesTarget = true ∧ s.target.availability = .answering := by
  simp [State.targetAnswers]

/-- Before a transaction the Target answers, only the draw is used. -/
theorem beforeTx_quiet {s : State} (hb : (s.drawAt 0).before = []) (ht : s.targetAnswers = true) :
    s.beforeTx = .ok s.advance := by
  obtain ⟨ha, hv⟩ := (targetAnswers_iff s).1 ht
  have same : s.advance.setTarget s.target = s.advance := rfl
  simp [State.beforeTx, hb, State.accessorTxs, ha, hv, same]

/-- Before a transaction no Target answers, only the draw is used. -/
theorem beforeTx_unanswered {s : State} (hb : (s.drawAt 0).before = []) (hu : s.unanswered = true) :
    s.beforeTx = .ok s.advance ∧ s.advance.targetAnswers = false := by
  have same : s.advance.setTarget s.target = s.advance := rfl
  cases ha : s.addressesTarget with
  | false =>
    have ha' : s.advance.addressesTarget = false := ha
    simp [State.beforeTx, hb, State.accessorTxs, ha, State.targetAnswers, ha']
  | true =>
    have hv : (s.target.comeUp (s.drawAt 0).answers).availability ≠ .answering := by
      simpa [State.unanswered, ha] using hu
    have hc := Target.comeUp_not_answering hv
    rw [hc] at hv
    simp [State.beforeTx, hb, State.accessorTxs, ha, hc, same, State.targetAnswers, hv]

theorem txOutcome_of_answers {s : State} (ht : s.targetAnswers = true) : s.txOutcome = (s.drawAt 0).outcome := by
  simp [State.txOutcome, ((targetAnswers_iff s).1 ht).1]

/-- A read the Target answers. -/
theorem memRead_quiet {a : Byte} {s : State} {reg : TargetReg} (hb : (s.drawAt 0).before = [])
    (ht : s.targetAnswers = true) (hd : s.target.decode a = some reg) :
    s.memRead a = s.advance.endRead a (s.target.read reg (s.drawAt 0).pins (s.drawAt 0).contention)
      (s.drawAt 0).outcome := by
  have ht' : s.advance.targetAnswers = true := ht
  simp [State.memRead, beforeTx_quiet hb ht, ht', hd, txOutcome_of_answers ht]

/-- A write the Target answers. -/
theorem memWrite_quiet {a v : Byte} {s : State} {reg : TargetReg} (hb : (s.drawAt 0).before = [])
    (ht : s.targetAnswers = true) (hd : s.target.decode a = some reg) :
    s.memWrite a v = (if writeLands (s.drawAt 0).outcome (s.drawAt 0).wrote
      then s.advance.setTarget (s.target.write reg v) else s.advance).endWrite a v (s.drawAt 0).outcome := by
  have ht' : s.advance.targetAnswers = true := ht
  simp [State.memWrite, beforeTx_quiet hb ht, ht', hd, txOutcome_of_answers ht]

/-- A read no Target answers gives the drawn byte, if it completes `ok` (R69, R243). -/
theorem memRead_unanswered {a : Byte} {s : State} (hb : (s.drawAt 0).before = []) (hu : s.unanswered = true) :
    s.memRead a = s.advance.endRead a (s.drawAt 0).byte s.txOutcome := by
  obtain ⟨h, ht⟩ := beforeTx_unanswered hb hu
  simp [State.memRead, h, ht]

/-- A write no Target answers writes nothing (R69; in reset and coming up log entry 5). -/
theorem memWrite_unanswered {a v : Byte} {s : State} (hb : (s.drawAt 0).before = []) (hu : s.unanswered = true) :
    s.memWrite a v = s.advance.endWrite a v s.txOutcome := by
  obtain ⟨h, ht⟩ := beforeTx_unanswered hb hu
  simp [State.memWrite, h, ht]

/-! ## The record of an operation (R29, R69) -/

/-- The record has grown by events of which none is a hang. -/
def GrewWithoutHang (s t : State) : Prop := ∃ l, t.log = s.log ++ l ∧ ∀ e ∈ l, isHang e = false

/-- The record has grown by events of which the last, and no other, is a transaction that never completed. -/
def GrewToHang (s t : State) : Prop :=
  ∃ l slave op, t.log = s.log ++ l ++ [.transfer slave op .hang none] ∧ ∀ e ∈ l, isHang e = false

theorem GrewWithoutHang.refl (s : State) : GrewWithoutHang s s := ⟨[], by simp, by simp⟩

theorem GrewWithoutHang.trans {s t u : State} (h : GrewWithoutHang s t) (k : GrewWithoutHang t u) :
    GrewWithoutHang s u := by
  obtain ⟨l, hl, h⟩ := h
  obtain ⟨m, hm, k⟩ := k
  refine ⟨l ++ m, by rw [hm, hl, List.append_assoc], fun e he => ?_⟩
  exact (List.mem_append.1 he).elim (h e) (k e)

theorem GrewWithoutHang.toHang {s t u : State} (h : GrewWithoutHang s t) (k : GrewToHang t u) : GrewToHang s u := by
  obtain ⟨l, hl, h⟩ := h
  obtain ⟨m, slave, op, hm, k⟩ := k
  refine ⟨l ++ m, slave, op, by rw [hm, hl, List.append_assoc s.log], fun e he => ?_⟩
  exact (List.mem_append.1 he).elim (h e) (k e)

theorem grew_record {s : State} {e : BusEvent} (h : isHang e = false) : GrewWithoutHang s (s.record e) :=
  ⟨[e], rfl, by simpa using h⟩

theorem grew_setTarget (s : State) (t : Target) : GrewWithoutHang s (s.setTarget t) := ⟨[], by simp, by simp⟩

theorem grew_accessorTxs {l : List OtherTx} {s t : State} (h : s.accessorTxs l = .ok t) : GrewWithoutHang s t := by
  induction l generalizing s with
  | nil => cases h; exact .refl _
  | cons tx l ih =>
    simp only [State.accessorTxs] at h
    split at h
    · cases h
    · obtain ⟨tgt, rfl, -⟩ := accessorTx_cases ‹_›
      exact (grew_record (s := s.setTarget tgt) (e := .accessor tx) rfl).trans (ih h)

theorem grew_beforeTx {s t : State} (h : s.beforeTx = .ok t) : GrewWithoutHang s t := by
  unfold State.beforeTx at h
  obtain ⟨l, hl, hg⟩ := grew_accessorTxs h
  exact ⟨l, by rw [hl]; split <;> rfl, hg⟩

/-- What an operation's end records: a completion without a hang, or the hang as the last event. -/
def Perf.Recorded (s : State) (p : Perf) : Prop :=
  match p with
  | .completed _ t => GrewWithoutHang s t
  | .never t => GrewToHang s t
  | .fault _ => True

theorem recorded_endRead {s u : State} (h : GrewWithoutHang s u) (a v : Byte) (o : TxOutcome) :
    (u.endRead a v o).Recorded s := by
  cases o with
  | hang => exact h.toHang ⟨[], _, _, by simp [State.record]; exact ⟨rfl, rfl⟩, by simp⟩
  | ok => exact h.trans (grew_record rfl)
  | nack _ => exact h.trans (grew_record rfl)
  | fail => exact h.trans (grew_record rfl)

theorem recorded_endWrite {s u : State} (h : GrewWithoutHang s u) (a v : Byte) (o : TxOutcome) :
    (u.endWrite a v o).Recorded s := by
  cases o with
  | hang => exact h.toHang ⟨[], _, _, by simp [State.record]; exact ⟨rfl, rfl⟩, by simp⟩
  | ok => exact h.trans (grew_record rfl)
  | nack _ => exact h.trans (grew_record rfl)
  | fail => exact h.trans (grew_record rfl)

/-- Whatever an operation does, its record shows a hang exactly when it never completes, and then as its last event. -/
theorem perform_recorded (op : BusOp) (s : State) : (perform op s).Recorded s := by
  cases op with
  | openBus b => exact grew_record (s := s) rfl
  | funcs => exact grew_record (s := s.advance) rfl
  | bind a => exact grew_record (s := s.advance) rfl
  | close => exact grew_record (s := s.advance) rfl
  | read a =>
    simp only [perform, State.memRead]
    cases h : s.beforeTx with
    | error f => trivial
    | ok u =>
      simp only
      split
      · split
        · trivial
        · exact recorded_endRead (grew_beforeTx h) _ _ _
      · exact recorded_endRead (grew_beforeTx h) _ _ _
  | write a v =>
    simp only [perform, State.memWrite]
    cases h : s.beforeTx with
    | error f => trivial
    | ok u =>
      simp only
      split
      · split
        · trivial
        · split
          · exact recorded_endWrite ((grew_beforeTx h).trans (grew_setTarget u _)) _ _ _
          · exact recorded_endWrite (grew_beforeTx h) _ _ _
      · exact recorded_endWrite (grew_beforeTx h) _ _ _

/-! ## Running a program -/

/-- What a finished or hung run leaves alone: the sequencing state, the parameters, the agenda and the responses are
unchanged, draws have only been used, and the record has only grown. -/
structure OnlyRun (s t : State) : Prop where
  phase : t.phase = s.phase
  exited : t.exited = s.exited
  par : t.par = s.par
  agenda : t.agenda = s.agenda
  responses : t.responses = s.responses
  draws : ∃ m, ∀ k, t.drawAt k = s.drawAt (m + k)
  log : ∃ l, t.log = s.log ++ l

theorem OnlyRun.refl (s : State) : OnlyRun s s := ⟨rfl, rfl, rfl, rfl, rfl, ⟨0, by simp⟩, [], by simp⟩

theorem OnlyRun.trans {s t u : State} (h : OnlyRun s t) (k : OnlyRun t u) : OnlyRun s u := by
  obtain ⟨l, hl⟩ := h.log
  obtain ⟨m, hm⟩ := k.log
  obtain ⟨i, hi⟩ := h.draws
  obtain ⟨j, hj⟩ := k.draws
  exact ⟨k.phase.trans h.phase, k.exited.trans h.exited, k.par.trans h.par, k.agenda.trans h.agenda,
    k.responses.trans h.responses, ⟨i + j, fun n => by rw [hj, hi, Nat.add_assoc]⟩, l ++ m,
    by rw [hm, hl, List.append_assoc]⟩

theorem OnlyBus.onlyRun {s t : State} (h : OnlyBus s t) : OnlyRun s t :=
  ⟨h.phase, h.exited, h.par, h.agenda, h.responses, h.draws, h.log⟩

theorem onlyRun_mapSession (s : State) (f : Session → Session) : OnlyRun s (s.mapSession f) :=
  ⟨rfl, rfl, rfl, rfl, rfl, ⟨0, by simp⟩, [], by simp⟩

theorem onlyRun_tryHook (s : State) : OnlyRun s s.tryHook :=
  ⟨rfl, rfl, rfl, rfl, rfl, ⟨1, fun k => by simp [State.tryHook, Nat.add_comm]⟩, [], by simp [State.tryHook]⟩

/-- A run leaves the sequencing state, the parameters, the agenda and the responses. -/
theorem onlyRun_go (p : Prog) {s t : State}
    (h : (∃ st data, p.go s = .finished st data t) ∨ p.go s = .hung t) : OnlyRun s t := by
  induction p generalizing s with
  | done st data =>
    rcases h with ⟨_, _, h⟩ | h <;> cases h
    exact .refl _
  | assign f k ih => exact (onlyRun_mapSession s f).trans (ih h)
  | hook k ih => exact (onlyRun_tryHook s).trans (ih h)
  | issue op k ih =>
    simp only [Prog.go] at h
    split at h
    · exact (onlyBus_perform (.inl ‹_›)).onlyRun.trans (ih _ h)
    · rcases h with ⟨_, _, h⟩ | h <;> cases h
      exact (onlyBus_perform (r := .ok) (.inr ‹_›)).onlyRun
    · rcases h with ⟨_, _, h⟩ | h <;> cases h

/-- A move leaves the sequencing state, the parameters, the agenda and the responses. -/
theorem onlyRun_move (p : Prog) {s t : State}
    (h : (∃ r, p.move s = .issued r t) ∨ (∃ st data, p.move s = .finished st data t) ∨ p.move s = .hung t) :
    OnlyRun s t := by
  induction p generalizing s with
  | done st data =>
    rcases h with ⟨_, h⟩ | ⟨_, _, h⟩ | h <;> cases h
    exact .refl _
  | assign f k ih => exact (onlyRun_mapSession s f).trans (ih h)
  | hook k ih => exact (onlyRun_tryHook s).trans (ih h)
  | issue op k ih =>
    simp only [Prog.move] at h
    split at h <;> rcases h with ⟨_, h⟩ | ⟨_, _, h⟩ | h <;> cases h
    · exact (onlyBus_perform (.inl ‹_›)).onlyRun
    · exact (onlyBus_perform (r := .ok) (.inr ‹_›)).onlyRun

/-- What a command's run can answer (R29, R223): one response and IDLE, no response and HUNG, or the model fault. -/
theorem run_cases (p : Prog) (s : State) :
    (∃ st data t, p.go s = .finished st data t ∧ p.run s = .next (t.respond st data)) ∨
    (∃ t, p.go s = .hung t ∧ p.run s = .next (t.setPhase .hung)) ∨
    (∃ f, p.go s = .fault f ∧ p.run s = .fault f) := by
  unfold Prog.run
  cases h : p.go s with
  | finished st data t => exact .inl ⟨st, data, t, rfl, rfl⟩
  | hung t => exact .inr (.inl ⟨t, rfl, rfl⟩)
  | fault f => exact .inr (.inr ⟨f, rfl, rfl⟩)

@[simp] theorem run_ret (v : Byte) (s : State) : (Prog.ret v).run s = .next (s.respond .ok v) := rfl

@[simp] theorem run_retOk (s : State) : Prog.retOk.run s = .next (s.respond .ok 0) := rfl

@[simp] theorem run_raise (st : Status) (s : State) : (Prog.raise st).run s = .next (s.respond st 0) := rfl

@[simp] theorem run_assign (f : Session → Session) (k : Prog) (s : State) :
    (Prog.assign f k).run s = k.run (s.mapSession f) := rfl

@[simp] theorem run_hook (k : Prog) (s : State) : (Prog.hook k).run s = k.run s.tryHook := rfl

/-- Running an operation that completes. -/
theorem run_issue {op : BusOp} {k : TxResult → Prog} {s t : State} {r : TxResult}
    (h : perform op s = .completed r t) : (Prog.issue op k).run s = (k r).run t := by
  simp [Prog.run, Prog.go, h]

/-- Running an operation that never completes (R29, R255). -/
theorem run_issue_never {op : BusOp} {k : TxResult → Prog} {s t : State}
    (h : perform op s = .never t) : (Prog.issue op k).run s = .next (t.setPhase .hung) := by
  simp [Prog.run, Prog.go, h]

/-- Running an operation that meets the model fault (R62). -/
theorem run_issue_fault {op : BusOp} {k : TxResult → Prog} {s : State} {f : Fault}
    (h : perform op s = .fault f) : (Prog.issue op k).run s = .fault f := by
  simp [Prog.run, Prog.go, h]

/-! ## Control operations (R78 to R82) -/

/-- OPEN (R79). -/
theorem run_openBus (b : Byte) (k : TxResult → Prog) (s : State) :
    (Prog.issue (.openBus b) k).run s =
      (k (if openOK s.par b then .ok else .fail)).run
        (s.record (.control (.openBus b) (if openOK s.par b then .ok else .fail))) :=
  run_issue rfl

/-- FUNCS (R80). -/
theorem run_funcs (k : TxResult → Prog) (s : State) :
    (Prog.issue .funcs k).run s =
      (k (if (s.drawAt 0).ctrl then .caps (capsOf s.par s.session.bus) else .fail)).run
        (s.advance.record (.control .funcs
          (if (s.drawAt 0).ctrl then .caps (capsOf s.par s.session.bus) else .fail))) :=
  run_issue rfl

/-- BIND (R81). -/
theorem run_bind (a : Byte) (k : TxResult → Prog) (s : State) :
    (Prog.issue (.bind a) k).run s =
      (k (if a.toNat ≤ 0x7F && (s.drawAt 0).bind then .ok else .fail)).run
        (s.advance.record (.control (.bind a) (if a.toNat ≤ 0x7F && (s.drawAt 0).bind then .ok else .fail))) :=
  run_issue rfl

/-- CLOSE (R82). -/
theorem run_close (k : TxResult → Prog) (s : State) :
    (Prog.issue .close k).run s =
      (k (if (s.drawAt 0).ctrl then .ok else .fail)).run
        (s.advance.record (.control .close (if (s.drawAt 0).ctrl then .ok else .fail))) :=
  run_issue rfl

/-! ## The state after a completed command -/

theorem respond_eq_afterCommand (s : State) (st : Status) (data : Byte) :
    s.respond st data = s.afterCommand 0 [] s.target st data := by
  simp [State.respond, State.afterCommand]

/-- A draw and an event before the rest of a command. -/
@[simp] theorem afterCommand_step (s : State) (e : BusEvent) (n : Nat) (l : List BusEvent) (t : Target) (st : Status)
    (data : Byte) :
    (s.advance.record e).afterCommand n l t st data = s.afterCommand (n + 1) (e :: l) t st data := by
  simp [State.afterCommand, State.advance, State.record, Nat.add_assoc, Nat.add_comm 1 n]

/-- A draw, a write and an event before the rest of a command. -/
@[simp] theorem afterCommand_write (s : State) (x : Target) (e : BusEvent) (n : Nat) (l : List BusEvent) (t : Target)
    (st : Status) (data : Byte) :
    ((s.advance.setTarget x).record e).afterCommand n l t st data = s.afterCommand (n + 1) (e :: l) t st data := by
  simp [State.afterCommand, State.advance, State.record, State.setTarget, Nat.add_assoc, Nat.add_comm 1 n]

/-! ## One transaction of a run, the Target answering and no other accessor before it

`reg` is the register the address reaches; the three outcomes of a read and of a write (R63, R65, R69, R70). -/

section Transactions

variable {a v : Byte} {s : State} {reg : TargetReg} {k : TxResult → Prog}

theorem run_read_ok (hb : (s.drawAt 0).before = []) (ht : s.targetAnswers = true) (hd : s.target.decode a = some reg)
    (ho : (s.drawAt 0).outcome = .ok) :
    (Prog.issue (.read a) k).run s =
      (k (.byte (s.target.read reg (s.drawAt 0).pins (s.drawAt 0).contention))).run
        (s.advance.record (readEvent s a (s.target.read reg (s.drawAt 0).pins (s.drawAt 0).contention))) :=
  run_issue (by simp [perform, memRead_quiet hb ht hd, ho, State.endRead, readEvent])

theorem run_read_failed (hb : (s.drawAt 0).before = []) (ht : s.targetAnswers = true)
    (hd : s.target.decode a = some reg) (ho : outcomeFailed (s.drawAt 0).outcome = true) :
    (Prog.issue (.read a) k).run s =
      (k .fail).run (s.advance.record (failedReadEvent s a (s.drawAt 0).outcome)) := by
  refine run_issue ?_
  rw [perform, memRead_quiet hb ht hd]
  cases h : (s.drawAt 0).outcome <;> simp [h, outcomeFailed] at ho <;> simp [State.endRead, failedReadEvent]

theorem run_read_hang (hb : (s.drawAt 0).before = []) (ht : s.targetAnswers = true)
    (hd : s.target.decode a = some reg) (ho : (s.drawAt 0).outcome = .hang) :
    (Prog.issue (.read a) k).run s =
      .next ((s.advance.record (failedReadEvent s a .hang)).setPhase .hung) :=
  run_issue_never (by simp [perform, memRead_quiet hb ht hd, ho, State.endRead, failedReadEvent])

theorem run_read_unmodelled (hb : (s.drawAt 0).before = []) (ht : s.targetAnswers = true)
    (hd : s.target.decode a = none) :
    (Prog.issue (.read a) k).run s = .fault (.unmodelledTargetRegister a) := by
  have ht' : s.advance.targetAnswers = true := ht
  exact run_issue_fault (by simp [perform, State.memRead, beforeTx_quiet hb ht, ht', hd])

theorem run_write_ok (hb : (s.drawAt 0).before = []) (ht : s.targetAnswers = true) (hd : s.target.decode a = some reg)
    (ho : (s.drawAt 0).outcome = .ok) :
    (Prog.issue (.write a v) k).run s =
      (k .ok).run ((s.advance.setTarget (s.target.write reg v)).record (writeEvent s a v)) :=
  run_issue (by simp [perform, memWrite_quiet hb ht hd, ho, writeLands, State.endWrite, writeEvent])

theorem run_write_failed (hb : (s.drawAt 0).before = []) (ht : s.targetAnswers = true)
    (hd : s.target.decode a = some reg) (ho : outcomeFailed (s.drawAt 0).outcome = true) :
    (Prog.issue (.write a v) k).run s =
      (k .fail).run ((s.advance.setTarget (if (s.drawAt 0).wrote then s.target.write reg v else s.target)).record
        (failedWriteEvent s a v (s.drawAt 0).outcome)) := by
  refine run_issue ?_
  rw [perform, memWrite_quiet hb ht hd]
  have same : s.advance.setTarget s.target = s.advance := rfl
  cases h : (s.drawAt 0).outcome <;> simp [h, outcomeFailed] at ho <;>
    cases hw : (s.drawAt 0).wrote <;> simp [writeLands, State.endWrite, failedWriteEvent, same]

theorem run_write_hang (hb : (s.drawAt 0).before = []) (ht : s.targetAnswers = true)
    (hd : s.target.decode a = some reg) (ho : (s.drawAt 0).outcome = .hang) :
    (Prog.issue (.write a v) k).run s =
      .next ((s.advance.record (failedWriteEvent s a v .hang)).setPhase .hung) :=
  run_issue_never (by simp [perform, memWrite_quiet hb ht hd, ho, writeLands, State.endWrite, failedWriteEvent])

end Transactions

/-! ## The Target answers -/

@[simp] theorem targetAnswers_advance (s : State) : s.advance.targetAnswers = s.targetAnswers := rfl

@[simp] theorem targetAnswers_record (s : State) (e : BusEvent) : (s.record e).targetAnswers = s.targetAnswers := rfl

@[simp] theorem targetAnswers_setTarget_write (s : State) (reg : TargetReg) (v : Byte) :
    (s.setTarget (s.target.write reg v)).targetAnswers = s.targetAnswers := by
  simp [State.targetAnswers, State.addressesTarget]

end Sys2Proof.Machine
end

