-- ==== Sys2Proof/Laws/PerInstr.lean ====
section
/-! SUPPORT. Family MatchMask: a well-formed command's word fits its row of the opcode table,
`cmd & mask(X) == match(X)` (spec/30_encoding.md R95), one lemma per command. -/

namespace Sys2Proof

/-- The word of a well-formed command fits the mask and match of its row. -/
def Laws.MatchMask.Statement (i : Instr) : Prop :=
  i.wellFormed = true → encode i &&& formatMask i.format = i.matchWord

theorem Laws.MatchMask.init (a b c : Byte) : Laws.MatchMask.Statement (.init a b c) := by
  intro h
  have h' : b &&& 0xF8#8 = 0#8 := by simpa [Instr.wellFormed, flgReservedClear] using h
  simp [encode, Instr.format, formatMask_eq, matchWord_eq, packWord_and, Instr.opcode, h']

theorem Laws.MatchMask.cleanup : Laws.MatchMask.Statement .cleanup := by
  intro _
  simp [encode, Instr.format, formatMask_eq, matchWord_eq, packWord_and, Instr.opcode]

theorem Laws.MatchMask.valreg (a : Byte) : Laws.MatchMask.Statement (.valreg a) := by
  intro _
  simp [encode, Instr.format, formatMask_eq, matchWord_eq, packWord_and, Instr.opcode]

theorem Laws.MatchMask.readreg (a : Byte) : Laws.MatchMask.Statement (.readreg a) := by
  intro _
  simp [encode, Instr.format, formatMask_eq, matchWord_eq, packWord_and, Instr.opcode]

theorem Laws.MatchMask.getreg (a : Byte) : Laws.MatchMask.Statement (.getreg a) := by
  intro _
  simp [encode, Instr.format, formatMask_eq, matchWord_eq, packWord_and, Instr.opcode]

theorem Laws.MatchMask.writereg (a b : Byte) : Laws.MatchMask.Statement (.writereg a b) := by
  intro _
  simp [encode, Instr.format, formatMask_eq, matchWord_eq, packWord_and, Instr.opcode]

theorem Laws.MatchMask.setones (a b : Byte) : Laws.MatchMask.Statement (.setones a b) := by
  intro _
  simp [encode, Instr.format, formatMask_eq, matchWord_eq, packWord_and, Instr.opcode]

theorem Laws.MatchMask.setzeros (a b : Byte) : Laws.MatchMask.Statement (.setzeros a b) := by
  intro _
  simp [encode, Instr.format, formatMask_eq, matchWord_eq, packWord_and, Instr.opcode]

theorem Laws.MatchMask.setout (a b : Byte) : Laws.MatchMask.Statement (.setout a b) := by
  intro _
  simp [encode, Instr.format, formatMask_eq, matchWord_eq, packWord_and, Instr.opcode]

theorem Laws.MatchMask.setin (a b : Byte) : Laws.MatchMask.Statement (.setin a b) := by
  intro _
  simp [encode, Instr.format, formatMask_eq, matchWord_eq, packWord_and, Instr.opcode]

theorem Laws.MatchMask.wrporta (a : Byte) : Laws.MatchMask.Statement (.wrporta a) := by
  intro _
  simp [encode, Instr.format, formatMask_eq, matchWord_eq, packWord_and, Instr.opcode]

theorem Laws.MatchMask.wrportb (a : Byte) : Laws.MatchMask.Statement (.wrportb a) := by
  intro _
  simp [encode, Instr.format, formatMask_eq, matchWord_eq, packWord_and, Instr.opcode]

theorem Laws.MatchMask.rdporta : Laws.MatchMask.Statement .rdporta := by
  intro _
  simp [encode, Instr.format, formatMask_eq, matchWord_eq, packWord_and, Instr.opcode]

theorem Laws.MatchMask.rdportb : Laws.MatchMask.Statement .rdportb := by
  intro _
  simp [encode, Instr.format, formatMask_eq, matchWord_eq, packWord_and, Instr.opcode]

theorem Laws.MatchMask.isout (a : Byte) : Laws.MatchMask.Statement (.isout a) := by
  intro _
  simp [encode, Instr.format, formatMask_eq, matchWord_eq, packWord_and, Instr.opcode]

theorem Laws.MatchMask.setbit (a : Byte) : Laws.MatchMask.Statement (.setbit a) := by
  intro _
  simp [encode, Instr.format, formatMask_eq, matchWord_eq, packWord_and, Instr.opcode]

theorem Laws.MatchMask.clrbit (a : Byte) : Laws.MatchMask.Statement (.clrbit a) := by
  intro _
  simp [encode, Instr.format, formatMask_eq, matchWord_eq, packWord_and, Instr.opcode]

end Sys2Proof
end

