-- ==== Sys2Proof/Laws/Progs.lean ====
section
/-! SUPPORT. What the shared pseudocode can do: a command is the run of its pseudocode, the read-modify-write pair,
the direction check, and the draws after a completed command. -/

namespace Sys2Proof.Machine

open Sys2Proof

/-- Every meaning is the run of its command's pseudocode (R12). -/
theorem exec_eq_run (i : Instr) (s : State) : exec i s = (progOf i s).run s := by cases i <;> rfl

@[simp] theorem State.afterCommand_drawAt (s : State) (n : Nat) (l : List BusEvent) (t : Target) (st : Status)
    (data : Byte) (k : Nat) : (s.afterCommand n l t st data).drawAt k = s.drawAt (n + k) := by
  simp [State.drawAt, State.afterCommand, Nat.add_assoc]

/-- An initialised session's layout is that of the chip bank (R41). -/
theorem layout_cases {s : State} (h : layoutAgrees s = true) :
    (s.session.layout = .bank0 ∧ s.target.bank = false) ∨ (s.session.layout = .bank1 ∧ s.target.bank = true) := by
  unfold layoutAgrees at h
  cases hl : s.session.layout <;> simp_all

/-! ## The read-modify-write pair (R75, R146, R147) -/

/-- Both transactions complete: one read, one write of the combined value to the same address. -/
theorem run_rmwAt_ok {s : State} {a m v : Byte} {r : LogReg} {op : RmwOp} {k : Status → Prog}
    (hl : layoutAgrees s = true) (ht : s.targetAnswers = true) (ho : TransactionsOk 2 s) (hn : NoAccessorWithin 2 s)
    (ha : addrOf s.session.layout r = some a)
    (hv : v = s.target.read (.data r) (s.drawAt 0).pins (s.drawAt 0).contention) :
    (rmwAt a op m k).run s =
      (k .ok).run (((s.advance.record (readEvent s a v)).advance.setTarget
        (s.target.write (.data r) (op.apply v m))).record (writeEvent s a (op.apply v m))) := by
  subst hv
  have hd := decode_of_addrOf hl ha
  rw [rmwAt, run_read_ok (hn 0 (by omega)) ht hd (ho 0 (by omega))]
  simp only
  rw [run_write_ok (reg := .data r) (by simp [hn 1 (by omega)]) (by simp [ht]) (by simpa using hd)
    (by simp [ho 1 (by omega)])]
  simp [writeEvent]

/-- The read fails: the pair gives IO_ERROR and writes nothing (R146, R219). -/
theorem run_rmwAt_failed {s : State} {a m : Byte} {r : LogReg} {op : RmwOp} {k : Status → Prog}
    (hl : layoutAgrees s = true) (ht : s.targetAnswers = true) (ho : outcomeFailed (s.drawAt 0).outcome = true)
    (hb : (s.drawAt 0).before = []) (ha : addrOf s.session.layout r = some a) :
    (rmwAt a op m k).run s =
      (k .ioError).run (s.advance.record (failedReadEvent s a (s.drawAt 0).outcome)) := by
  rw [rmwAt, run_read_failed hb ht (decode_of_addrOf hl ha) ho]

/-! ## The direction check (R192) -/

/-- The test of a direction bit by its mask. -/
theorem and_bitMask_eq_zero (v : Byte) {o : Nat} (h : o < 8) : (v &&& bitMask o == 0) = !v.getLsbD o := by
  revert v
  revert o
  decide

/-- The offset of a bit code is below 8 (R190). -/
theorem bitOff_lt {b : Byte} (h : validBit b = true) : bitOff b < 8 := by
  revert b
  decide

/-- The direction check on the byte an IODIR read returns, with either mask of R193. -/
theorem dirMask_test (s : State) {b : Byte} (h : validBit b = true) :
    (s.target.iodir (bitPort b) &&& dirMask s.par.isOutBTypoCompat (bitPort b) (bitOff b) == 0) = testsAsOutput s b := by
  have hv : 0x01 ≤ b.toNat ∧ b.toNat ≤ 0x10 := by simpa [validBit] using h
  have ho := bitOff_lt h
  by_cases hp : 0x09 ≤ b.toNat
  · have hport : bitPort b = .b := by simp [bitPort]; omega
    have hoff : bitOff b = b.toNat - 0x09 := by simp [bitOff]; omega
    cases hc : s.par.isOutBTypoCompat with
    | false =>
      simp only [testsAsOutput, hc, hport, dirMask, Bool.false_and, Bool.false_eq_true, if_false]
      exact and_bitMask_eq_zero _ ho
    | true =>
      simp only [testsAsOutput, hc, hport, dirMask, hoff, hp, decide_true, Bool.and_self, if_true, Target.iodir]
      by_cases h2 : b.toNat ≤ 0x0a
      · simp [h2, show ¬ 1 < b.toNat - 9 by omega]
      · simp only [h2, show 1 < b.toNat - 9 by omega, if_true, decide_false, Bool.false_or]
        exact and_bitMask_eq_zero _ (o := 0) (by omega)
  · have hport : bitPort b = .a := by simp [bitPort]; omega
    simp only [testsAsOutput, hp, hport, dirMask, decide_false, Bool.and_false, Bool.false_eq_true, if_false]
    exact and_bitMask_eq_zero _ ho

/-- The IODIR read completes: the check answers by the pin's direction, as `IsOutBTypoCompat` has it. -/
theorem run_isoutBody_ok {s : State} {b a : Byte} {k : Bool → Prog} (hu : SessionUp s)
    (ho : (s.drawAt 0).outcome = .ok) (hb : (s.drawAt 0).before = []) (hv : validBit b = true)
    (ha : addrOf s.session.layout (.iodir (bitPort b)) = some a) :
    (isoutBody b s k).run s =
      (k (testsAsOutput s b)).run (s.advance.record (readEvent s a (s.target.iodir (bitPort b)))) := by
  obtain ⟨hi, hl, ht⟩ := hu
  simp only [isoutBody, hi, hv, Bool.and_self, if_true, ha]
  rw [run_read_ok hb ht (decode_of_addrOf hl ha) ho]
  simp only [Target.read, dirMask_test s hv]

/-- The IODIR read fails: the check says no output. -/
theorem run_isoutBody_failed {s : State} {b a : Byte} {k : Bool → Prog} (hu : SessionUp s)
    (ho : outcomeFailed (s.drawAt 0).outcome = true) (hb : (s.drawAt 0).before = []) (hv : validBit b = true)
    (ha : addrOf s.session.layout (.iodir (bitPort b)) = some a) :
    (isoutBody b s k).run s = (k false).run (s.advance.record (failedReadEvent s a (s.drawAt 0).outcome)) := by
  obtain ⟨hi, hl, ht⟩ := hu
  simp only [isoutBody, hi, hv, Bool.and_self, if_true, ha]
  rw [run_read_failed hb ht (decode_of_addrOf hl ha) ho]

end Sys2Proof.Machine
end

