-- ==== Sys2Proof/Laws/Premises.lean ====
section
/-! SUPPORT. The premises of R9 along a run: what one command needs of them, and that every step keeps them. -/

namespace Sys2Proof.Machine

open Sys2Proof

/-! ## From a premise to one command -/

theorem BusReliable.transactionsOk {s : State} (h : BusReliable s) (n : Nat) : TransactionsOk n s :=
  fun k _ => (h k).1

theorem NoOtherAccessor.noAccessorWithin {s : State} (h : NoOtherAccessor s) (n : Nat) : NoAccessorWithin n s :=
  fun k _ => h.1 k

theorem NoPinContention.noContentionWithin {s : State} (h : NoPinContention s) (n : Nat) : NoContentionWithin n s :=
  fun k _ => h k

/-! ## What a step does to the inputs -/

/-- Draws have only been used, and at most moves of the agenda have been taken. -/
def InputsUsed (s t : State) : Prop := (∃ m, ∀ k, t.drawAt k = s.drawAt (m + k)) ∧ t.agenda.Sublist s.agenda

theorem OnlyRun.inputsUsed {s t : State} (h : OnlyRun s t) : InputsUsed s t :=
  ⟨h.draws, by rw [h.agenda]⟩

/-- A command leaves the agenda and uses draws. -/
theorem inputsUsed_run {p : Prog} {s t : State} (h : p.run s = .next t) : InputsUsed s t := by
  rcases run_cases p s with ⟨st, data, u, hg, hr⟩ | ⟨u, hg, hr⟩ | ⟨f, -, hr⟩ <;> rw [hr] at h <;> cases h
  · exact (onlyRun_go p (.inl ⟨_, _, hg⟩)).inputsUsed
  · exact (onlyRun_go p (.inr hg)).inputsUsed

theorem InputsUsed.refl (s : State) : InputsUsed s s := ⟨⟨0, by simp⟩, List.Sublist.refl _⟩

theorem inputsUsed_engineMove {s t : State} (h : engineMove s = .next t) : InputsUsed s t := by
  unfold engineMove at h
  split at h
  · cases h
    exact .refl _
  · cases h
    exact .refl _
  · split at h
    · cases h
      exact .refl _
    · split at h <;> cases h
      · have hr := onlyRun_move _ (.inl ⟨_, ‹_›⟩)
        exact hr.inputsUsed
      · have hr := onlyRun_move _ (.inr (.inl ⟨_, _, ‹_›⟩))
        exact hr.inputsUsed
      · have hr := onlyRun_move _ (.inr (.inr ‹_›))
        exact hr.inputsUsed

theorem inputsUsed_runWord {w : CmdWord} {s t : State} (h : runWord w s = .next t) : InputsUsed s t := by
  unfold runWord at h
  split at h
  · rw [exec_eq_run] at h
    exact inputsUsed_run h
  · cases h
    exact .refl _

/-- An accepted word is handed on as it is. -/
theorem acceptWord_next {s t : State} {k : State → Host.Outcome State Fault Refusal} (h : acceptWord s k = .next t) :
    k s = .next t := by
  unfold acceptWord at h
  split at h
  · cases h
  · split at h
    · exact h
    · cases h

theorem inputsUsed_processExit {s t : State} (h : processExit s = .next t) : InputsUsed s t := by
  unfold processExit at h
  split at h
  · split at h
    · split at h <;> cases h
      · have hr := onlyRun_go _ (.inl ⟨_, _, ‹_›⟩)
        exact hr.inputsUsed
      · have hr := onlyRun_go _ (.inr ‹_›)
        exact hr.inputsUsed
    · cases h
      exact .refl _
  · cases h

theorem inputsUsed_handle {e : Event} {s t : State} (h : handle e s = .next t) : InputsUsed s t := by
  cases e with
  | submit w => exact inputsUsed_runWord (acceptWord_next h)
  | start w =>
    have hs := acceptWord_next (k := fun s' => .next (s'.setPhase (.busy w []))) h
    cases hs
    exact .refl s
  | proceed => exact inputsUsed_engineMove h
  | exit => exact inputsUsed_processExit h
  | engineReset => cases h; exact .refl _
  | targetPowerOn => cases h; exact .refl _
  | resetLineLow => cases h; exact .refl _
  | resetLineHigh => cases h; exact .refl _
  | targetAnswersAgain => cases h; exact .refl _
  | accessor tx =>
    simp only [handle] at h
    split at h <;> cases h
    exact (onlyBus_accessorTx ‹_›).onlyRun.inputsUsed

/-- A step uses draws and takes at most the next move of the agenda. -/
theorem step_inputsUsed {s t : State} (h : step s = .next t) : InputsUsed s t := by
  unfold step at h
  split at h
  · exact inputsUsed_engineMove h
  · rename_i e rest ha
    obtain ⟨hd, hs⟩ := inputsUsed_handle h
    exact ⟨hd, by rw [ha]; exact hs.trans (List.sublist_cons_self _ _)⟩

/-! ## Every step keeps the premises -/

theorem step_keeps_busReliable {s t : State} (hp : BusReliable s) (h : step s = .next t) : BusReliable t := by
  obtain ⟨⟨m, hm⟩, -⟩ := step_inputsUsed h
  intro k
  rw [hm]
  exact hp _

theorem step_keeps_noOtherAccessor {s t : State} (hp : NoOtherAccessor s) (h : step s = .next t) :
    NoOtherAccessor t := by
  obtain ⟨⟨m, hm⟩, hs⟩ := step_inputsUsed h
  refine ⟨fun k => ?_, fun tx ht => hp.2 tx (hs.subset ht)⟩
  rw [hm]
  exact hp.1 _

theorem step_keeps_noPinContention {s t : State} (hp : NoPinContention s) (h : step s = .next t) :
    NoPinContention t := by
  obtain ⟨⟨m, hm⟩, -⟩ := step_inputsUsed h
  intro k
  rw [hm]
  exact hp _

end Sys2Proof.Machine
end

