-- ==== Sys2Proof/Tests/Slice0.lean ====
section
/-! SUPPORT. Small tests against the worked examples of spec/95_test_vectors.md (the vector is named at each test),
and for every obligation with hypotheses a concrete state that meets them. -/

namespace Sys2Proof.Tests

open Sys2Proof Sys2Proof.Machine

/-! ## Helpers -/

/-- A draw with nothing unusual in it. -/
def quiet : Draw where
  before := []
  outcome := .ok
  outcomeElsewhere := .ok
  answers := true
  byte := 0x00
  pins := 0x00
  contention := 0x00
  wrote := false
  bind := true
  ctrl := true

/-- A data transaction that fails, a control operation that fails. -/
def failing (wrote : Bool) : Draw :=
  { quiet with outcome := .nack 0, outcomeElsewhere := .fail, wrote := wrote, bind := false, ctrl := false }

/-- A read where no Target answers, which gives this byte. -/
def stray (v : Byte) : Draw := { quiet with answers := false, byte := v }

/-- A read with these pin levels. -/
def pinsAre (v : Byte) : Draw := { quiet with pins := v }

/-- A transaction that never completes. -/
def hanging : Draw := { quiet with outcome := .hang }

/-- The start state T0 of the vectors, TARGET_ADDR the default address, six quiet draws to come. -/
def t0 : State := { State.reset with
  par := ⟨0x20, [], [], [], true, false⟩
  draws := List.replicate 6 quiet }

/-- The start state I0 of the vectors. -/
def i0 : State := { t0 with session := ⟨true, 1, false, 0x20, true, .bank0, true⟩ }

/-- The start state I1 of the vectors. -/
def i1 : State := { t0 with
  session := ⟨true, 1, false, 0x20, true, .bank1, true⟩
  target := { Target.reset with iocon := 0x80 } }

/-- The state with these registers of the Target. -/
def regs (s : State) (iodirA iodirB olatA olatB : Byte) : State := { s with
  target := { s.target with iodirA := iodirA, iodirB := iodirB, olatA := olatA, olatB := olatB } }

/-- The state with these draws to come. -/
def coming (s : State) (l : List Draw) : State := { s with draws := l }

/-- The state with this much to come of a reset of its Target. -/
def available (s : State) (v : Availability) : State := { s with target := { s.target with availability := v } }

/-- The state with another address bound. -/
def elsewhere (s : State) : State := { s with session := { s.session with slave := 0x21 } }

/-- The state with the typo option on. -/
def typo (s : State) : State := { s with par := { s.par with isOutBTypoCompat := true } }

/-- The state with these moves to come. -/
def moves (s : State) (l : List Event) : State := { s with agenda := l }

/-- The next state, if there is one. -/
def nextOf (o : Host.Outcome State Fault Refusal) : Option State :=
  match o with
  | .next s => some s
  | .fault _ => none
  | .refused _ => none

/-- The fault, if there is one. -/
def faultOf (o : Host.Outcome State Fault Refusal) : Option Fault :=
  match o with
  | .next _ => none
  | .fault f => some f
  | .refused _ => none

/-- The refusal, if there is one. -/
def refusalOf (o : Host.Outcome State Fault Refusal) : Option Refusal :=
  match o with
  | .next _ => none
  | .fault _ => none
  | .refused r => some r

/-- The word submitted as the next move: the responses after the step. -/
def answers (s : State) (w : Nat) : Option (List RspWord) := (nextOf (step (s.withFetchWord 32 w))).map (·.responses)

/-- The word submitted as the next move: the Target after the step. -/
def targetAfter (s : State) (w : Nat) : Option Target := (nextOf (step (s.withFetchWord 32 w))).map (·.target)

/-- The word submitted as the next move: the session after the step. -/
def sessionAfter (s : State) (w : Nat) : Option Session := (nextOf (step (s.withFetchWord 32 w))).map (·.session)

/-- The word submitted as the next move: the bus record after the step. -/
def logAfter (s : State) (w : Nat) : Option (List BusEvent) := (nextOf (step (s.withFetchWord 32 w))).map (·.log)

/-- A read at address 0x20 in the record. -/
def rd (a v : Byte) : BusEvent := .transfer 0x20 (.read a) .ok (some v)

/-- A write at address 0x20 in the record. -/
def wr (a v : Byte) : BusEvent := .transfer 0x20 (.write a v) .ok none

/-! ## Well-formedness: the one check refuses an ill-formed command (R93) -/

theorem test_wellFormed_flg : (Instr.init 0x00 0x08 0x00).wellFormed = false ∧ (Instr.init 0xFF 0x07 0xFF).wellFormed = true := by
  decide

/-! ## Decoding: words written out from R90 to R95 -/

-- OPC 00000001, SLA 00100001, FLG 00000111, BUS 00000000 (V-E17).
theorem test_decode_init : decode 0b00000001_00100001_00000111_00000000 = .ok (.init 0x21 0x07 0x00) := by decide

theorem test_decode_cleanup : decode 0b00000010_00000000_00000000_00000000 = .ok .cleanup := by decide

theorem test_decode_valreg : decode 0b00010000_00001010_00000000_00000000 = .ok (.valreg 0x0a) := by decide

theorem test_decode_readreg : decode 0b00010001_00010100_00000000_00000000 = .ok (.readreg 0x14) := by decide

theorem test_decode_getreg : decode 0b00010010_00011010_00000000_00000000 = .ok (.getreg 0x1a) := by decide

theorem test_decode_writereg : decode 0b00010011_00000001_01010101_00000000 = .ok (.writereg 0x01 0x55) := by decide

theorem test_decode_setones : decode 0b00010100_00010100_00001111_00000000 = .ok (.setones 0x14 0x0F) := by decide

theorem test_decode_setzeros : decode 0b00010101_00010100_11111111_00000000 = .ok (.setzeros 0x14 0xFF) := by decide

theorem test_decode_setout : decode 0b00100000_11110000_00001111_00000000 = .ok (.setout 0xF0 0x0F) := by decide

theorem test_decode_setin : decode 0b00100001_00000000_00000011_00000000 = .ok (.setin 0x00 0x03) := by decide

theorem test_decode_wrporta : decode 0b00100010_10100101_00000000_00000000 = .ok (.wrporta 0xA5) := by decide

theorem test_decode_wrportb : decode 0b00100011_01011010_00000000_00000000 = .ok (.wrportb 0x5A) := by decide

theorem test_decode_rdporta : decode 0b00100100_00000000_00000000_00000000 = .ok .rdporta := by decide

theorem test_decode_rdportb : decode 0b00100101_00000000_00000000_00000000 = .ok .rdportb := by decide

theorem test_decode_isout : decode 0b00110000_00001110_00000000_00000000 = .ok (.isout 0x0E) := by decide

theorem test_decode_setbit : decode 0b00110001_00010000_00000000_00000000 = .ok (.setbit 0x10) := by decide

theorem test_decode_clrbit : decode 0b00110010_00000001_00000000_00000000 = .ok (.clrbit 0x01) := by decide

-- V-E1 to V-E7, V-E10, V-E12, V-E14, V-E15.
theorem test_decode_illegal :
    [0x00000000, 0x03000000, 0xFF123456, 0x02000001, 0x11120001, 0x11120100, 0x01000800, 0x24000100, 0x13FF00AA,
      0x33010000, 0x26000000].map (fun w => decodeTableWord 32 w) = List.replicate 11 none := by
  decide

-- V-E4: an illegal word in I0 is answered 0x0700 and the session stays open.
theorem test_illegal_answer : answers i0 0x02000001 = some [0x0700] ∧ sessionAfter i0 0x02000001 = some i0.session := by
  decide

/-! ## Session commands -/

-- V-E17: OPEN(0), FUNCS, BIND(0x21), read and write at 0x0a.
theorem test_init_alt :
    sessionAfter { t0 with par := { t0.par with targetAddr := 0x21 } } 0x01210700 =
      some ⟨true, 0x00, true, 0x21, true, .bank1, true⟩ ∧
    (targetAfter { t0 with par := { t0.par with targetAddr := 0x21 } } 0x01210700).map (·.iocon) = some 0x80 := by
  decide

-- V-I4: an address above 0x7F fails BIND.
theorem test_init_bind :
    answers t0 0x01800200 = some [0x0100] ∧ (sessionAfter t0 0x01800200).map (·.handleOpen) = some false := by
  decide

-- V-I9.
theorem test_cleanup : logAfter i0 0x02000000 = some [.control .close .ok] ∧
    (sessionAfter i0 0x02000000).map (fun S => (S.init, S.layout, S.hookRegistered)) = some (false, .none, true) := by
  decide

/-! ## Register access -/

-- V-S10.
theorem test_valreg : answers i1 0x100A0000 = some [0x0001] ∧ answers i1 0x10140000 = some [0x0000] := by decide

-- V-R14.
theorem test_readreg : answers (coming (regs i0 0x0F 0xFF 0x50 0x00) [pinsAre 0x0A]) 0x11120000 = some [0x005A] := by
  decide

-- V-R11.
theorem test_getreg : answers (regs i1 0xFF 0xFF 0x00 0x3C) 0x121A0000 = some [0x003C] := by decide

-- V-R4.
theorem test_writereg : (targetAfter i0 0x1312A500).map (·.olatA) = some 0xA5 := by decide

-- V-R7.
theorem test_setones :
    logAfter (coming (regs i0 0xF0 0xFF 0x00 0x00) [pinsAre 0xC0, quiet]) 0x14120100 =
      some [rd 0x12 0xC0, wr 0x12 0xC1] := by
  decide

-- V-S8.
theorem test_setzeros : logAfter (regs i0 0xFF 0xFF 0x00 0x0F) 0x15150300 = some [rd 0x15 0x0F, wr 0x15 0x0C] := by
  decide

/-! ## Direction and ports -/

-- V-P1.
theorem test_setout : logAfter i0 0x20F00F00 = some [rd 0x00 0xFF, wr 0x00 0x0F, rd 0x01 0xFF, wr 0x01 0xF0] := by decide

-- V-P4.
theorem test_setin : logAfter (regs i0 0x00 0x00 0x00 0x00) 0x21000300 = some [rd 0x01 0x00, wr 0x01 0x03] := by
  decide

-- V-P11.
theorem test_wrporta : logAfter i1 0x22A50000 = some [wr 0x09 0xA5] ∧
    (targetAfter i1 0x22A50000).map (·.olatA) = some 0xA5 := by
  decide

-- P2.
theorem test_wrportb : logAfter i1 0x235A0000 = some [wr 0x19 0x5A] := by decide

-- V-P12, its second word.
theorem test_rdporta : answers (coming (regs i0 0xFF 0xFF 0xFF 0x00) [pinsAre 0x81]) 0x24000000 = some [0x0081] := by
  decide

-- V-P8.
theorem test_rdportb : answers (coming (regs i0 0xFF 0x0F 0x00 0xA0) [pinsAre 0x05]) 0x25000000 = some [0x00A5] := by
  decide

/-! ## Single-bit commands -/

-- V-S5.
theorem test_isout : answers (regs i0 0xF7 0xDF 0x00 0x00) 0x300E0000 = some [0x0001] ∧
    answers (regs i0 0xF7 0xDF 0x00 0x00) 0x30030000 = some [0x0000] := by
  decide

-- V-B1.
theorem test_setbit : logAfter (regs i0 0xFF 0x7F 0x00 0x00) 0x31100000 =
    some [rd 0x01 0x7F, rd 0x15 0x00, wr 0x13 0x80] := by
  decide

-- V-B11: the typo option lets an input pin of port B through.
theorem test_setbit_typo :
    logAfter (typo i0) 0x31090000 =
      some [rd 0x01 0xFF, rd 0x15 0x00, wr 0x13 0x01] := by
  decide

-- V-B13.
theorem test_clrbit : logAfter (regs i1 0xFF 0x00 0x00 0xFF) 0x32100000 =
    some [rd 0x10 0x00, rd 0x1a 0xFF, wr 0x19 0x7F] := by
  decide

/-! ## Hazards and the assembler -/

-- V-H1: a BANK0 session on a chip in bank 1.
theorem test_bank_mismatch :
    faultOf (step (State.withFetchWord { i0 with target := { i0.target with iocon := 0x80 } } 32 0x11120000)) =
      some (.unmodelledTargetRegister 0x12) := by
  decide

-- V-H5: the other accessor's update is lost.
theorem test_lost_update :
    (targetAfter (coming i0 [quiet, { quiet with before := [.write 0x14 0x80] }]) 0x14140100).map (·.olatA) =
      some 0x01 := by
  decide

-- R243: after a reset pulse a GETREG of IODIRB reads the drawn byte until the Target answers again, then 0xFF.
theorem test_reset_recovery :
    (nextOf (step (moves (regs i0 0x00 0x00 0x00 0x00) [.resetLineLow, .resetLineHigh]))).bind
      (fun t => (nextOf (step t)).bind fun u =>
        some (answers (coming u [stray 0x5A]) 0x12010000, answers (coming u [quiet]) 0x12010000)) =
      some (some [0x005A], some [0x00FF]) := by
  decide

-- P2's INIT line, and a register name under the alternate layout.
theorem test_asm_line :
    asmLine .bank0 "INIT bus=0 addr=0x21 alt ; comment".toList = .ok (.bank0, [.init 0x21 0x07 0x00]) ∧
    asmLine .bank1 "  getreg OLATB".toList = .ok (.bank1, [.getreg 0x1a]) := by
  decide

-- R109: a name is BANK0's by default and BANK1's after the directive (GPIOA is 0x12 and 0x09, R54, R55).
theorem test_asm_default_layout :
    asmProgram ["GETREG GPIOA".toList, ".layout BANK1".toList, "GETREG GPIOA".toList] =
      .ok [0x12120000, 0x12090000] := by
  decide

/-! ## Witnesses: a concrete state that meets each obligation's hypotheses, clause by clause -/

theorem witness_DecodeOfEncode : (Instr.init 0xFF 0x07 0xFF).wellFormed = true ∧ (Instr.setbit 0xFF).wellFormed = true := by
  decide

theorem witness_EncodeOfDecode : decode 0x01FF07FF = .ok (.init 0xFF 0x07 0xFF) := by decide

theorem witness_IllegalCommandAnswered :
    (moves t0 [.submit 0x33010000]).agenda = [.submit 0x33010000] ∧ (moves t0 [.submit 0x33010000]).phase = .idle ∧
    (moves t0 [.submit 0x33010000]).exited = false ∧
    ∀ i : Instr, (0x33010000 : CmdWord) &&& formatMask i.format ≠ i.matchWord := by
  refine ⟨rfl, rfl, rfl, fun i => ?_⟩
  cases i <;> simp only [Instr.format, formatMask, Instr.matchWord, Instr.opcode] <;> decide

theorem witness_StepRunsDecodedCommand :
    (moves i0 [.submit 0x24000000]).phase = .idle ∧ (moves i0 [.submit 0x24000000]).exited = false ∧
    decode 0x24000000 = .ok .rdporta := by
  decide

theorem witness_OperationsOneByOneAgreeWithWholeCommand : t0.phase = .idle ∧ decode 0x01000100 = .ok (.init 0 1 0) := by
  decide

theorem witness_HungStaysHung :
    (moves (i0.setPhase .hung) [.targetPowerOn]).phase = .hung ∧
    (nextOf (step (moves (i0.setPhase .hung) [.targetPowerOn]))).isSome = true := by
  decide

-- A submission after exit, a submission and an exit while HUNG.
theorem witness_NoMoveOutsideIdle :
    ({ moves i0 [.submit 0x24000000] with exited := true }).exited = true ∧
    (moves (i0.setPhase .hung) [.start 0x24000000]).phase ≠ .idle ∧
    refusalOf (step (moves (i0.setPhase .hung) [.exit])) = some .exitNotIdle := by
  decide

-- A command that ends and one that hangs; a first transaction that hangs, on each kind of register; a hung RMW write.
theorem witness_HangGivesNoResponse :
    ((nextOf (exec .rdporta i0)).isSome = true ∧ (nextOf (exec .rdporta (coming i0 [hanging]))).isSome = true) ∧
    (let s := coming i0 [hanging]
     SessionUp s ∧ NoAccessorWithin 1 s ∧ (s.drawAt 0).outcome = .hang ∧
       addrOf s.session.layout (.iodir .a) = some 0x00 ∧ addrOf s.session.layout (.iodir .b) = some 0x01 ∧
       addrOf s.session.layout (.gpio .a) = some 0x12 ∧ addrOf s.session.layout (.gpio .b) = some 0x13) ∧
    (let s := coming i0 [quiet, hanging]
     SessionUp s ∧ NoAccessorWithin 2 s ∧ TransactionsOk 1 s ∧ (s.drawAt 1).outcome = .hang ∧
       addrOf s.session.layout (.olat .b) = some 0x15) ∧
    ((0x01 : Byte) ≠ 0 ∧ validBit 0x01 = true ∧ LogReg.iodir .a = .iodir (bitPort 0x01)) := by
  decide

-- A BUSY INIT past its second operation, its handle open.
theorem witness_StepKeepsSessionInvariant :
    SessionInv i1 ∧
    SessionInv { t0 with
      session := ⟨false, 1, false, 0, true, .none, false⟩
      phase := .busy 0x01000000 [.ok, .caps ⟨true, true⟩] } ∧
    (nextOf (step { t0 with
      session := ⟨false, 1, false, 0, true, .none, false⟩
      phase := .busy 0x01000000 [.ok, .caps ⟨true, true⟩] })).isSome = true := by
  decide

theorem witness_StepKeepsParameters : (nextOf (step (moves i0 [.submit 0x02000000]))).isSome = true := by decide

theorem witness_OnlySessionCommandsWriteSession :
    (∀ sla flg bus, Instr.rdporta ≠ .init sla flg bus) ∧ Instr.rdporta ≠ .cleanup ∧
    (nextOf (exec .rdporta i0)).isSome = true := by
  exact ⟨fun _ _ _ => by simp, by decide, by decide⟩

-- One response, and none.
theorem witness_OneResponseOrHung :
    (nextOf (exec .rdporta i0)).map (·.phase) = some .idle ∧
    (nextOf (exec .rdporta (coming i0 [hanging]))).map (·.phase) = some .hung := by
  decide

-- An initialised session that agrees, and a closed one.
theorem witness_NoFaultWhileLayoutAgrees :
    (i1.session.init = true → layoutAgrees i1 = true) ∧ NoAccessorWithin 4 i1 ∧
    (t0.session.init = true → layoutAgrees t0 = true) ∧ NoAccessorWithin 4 t0 := by
  decide

-- A write to GPIOA: of the storage registers only OLATA's address is reached.
theorem witness_CommandsStoreOnlyAtTheirAddresses :
    NoAccessorWithin 4 i0 ∧ (nextOf (exec (.wrporta 0xA5) i0)).isSome = true ∧
    storageOf (.data (.olat .b)) = .data (.olat .b) ∧
    ∀ a ∈ storeAddrs (.wrporta 0xA5) i0, (i0.target.decode a).map storageOf ≠ some (.data (.olat .b)) := by
  decide

theorem witness_EngineResetEvent :
    (moves (i0.setPhase .hung) [.engineReset]).agenda = [.engineReset] ∧ t0.phase = .idle ∧ t0.agenda = [] := by
  decide

-- Power-on, a reset pulse, and a Target that comes up.
theorem witness_TargetResetEvents :
    (moves i1 [.targetPowerOn]).agenda = [.targetPowerOn] ∧
    (moves i1 [.resetLineLow, .resetLineHigh]).agenda = [.resetLineLow, .resetLineHigh] ∧
    (moves (available i1 .comingUp) [.targetAnswersAgain]).agenda = [.targetAnswersAgain] ∧
    (available i1 .comingUp).target.availability = .comingUp ∧
    (available i1 .heldInReset).target.availability = .heldInReset := by
  decide

-- With the hook and an open session; without the hook; with the hook and no session.
theorem witness_ProcessExitEndsSession :
    (moves i0 [.exit]).phase = .idle ∧ (moves i0 [.exit]).exited = false ∧ (moves i0 [.exit]).session.hookRegistered = true ∧
    (moves i0 [.exit]).session.init = true ∧ (moves i0 [.exit]).session.handleOpen = true ∧
    (moves t0 [.exit]).session.hookRegistered = false ∧
    ({ t0.session with hookRegistered := true } : Session).init = false := by
  decide

-- A decoded address, an address outside the decode, a Target that does not answer yet.
theorem witness_AccessorWriteBetweenCommands :
    (moves i0 [.accessor (.write 0x14 0x80)]).target.availability = .answering ∧
    (moves i0 [.accessor (.write 0x14 0x80)]).target.decode 0x14 = some (.data (.olat .a)) ∧
    (moves i0 [.accessor (.write 0x16 0x80)]).target.decode 0x16 = none ∧
    (moves (available i0 .comingUp) [.accessor (.write 0x14 0x80)]).target.availability ≠ .answering := by
  decide

-- Both banks, and GPIO bits 0 and 7.
theorem witness_TargetDecodesListedAddresses : i0.target.bank = false ∧ i1.target.bank = true := by decide

theorem witness_GpioReadMultiplexes :
    (0 < 8 ∧ 7 < 8) ∧ ((regs i0 0x80 0xFF 0x01 0x00).target.read (.data (.gpio .a)) 0x80 0x00) = 0x81 := by
  decide

-- A BANK0 session on a chip in bank 1, a BANK1 session on a chip in bank 0, and a reliable bus.
theorem witness_BankMismatchFaults :
    (let s : State := { i0 with target := { i0.target with iocon := 0x80 } }
     s.session.init = true ∧ s.targetAnswers = true ∧ NoAccessorWithin 1 s ∧ s.session.layout = .bank0 ∧
       s.target.bank = true ∧ (0x15 : Byte) ∈ [0x01, 0x12, 0x13, 0x14, 0x15]) ∧
    (let s : State := { i1 with target := Target.reset }
     s.session.init = true ∧ s.targetAnswers = true ∧ NoAccessorWithin 1 s ∧ s.session.layout = .bank1 ∧
       s.target.bank = false ∧ (0x1a : Byte) ∈ [0x10, 0x09, 0x19, 0x1a] ∧ TransactionsOk 1 s ∧ s.session.layout ≠ .none) := by
  decide

theorem witness_InitOpensBank0Session :
    t0.session.init = false ∧ (0x06 : Byte).getLsbD 0 = false ∧ openOK t0.par 0x03 = true ∧ (t0.drawAt 0).ctrl = true ∧
    capsOf t0.par 0x03 = ⟨true, true⟩ ∧ (0x7F : Byte).toNat ≤ 0x7F ∧ (t0.drawAt 1).bind = true ∧
    (0x7F : Byte) = (if (0x06 : Byte).getLsbD 1 then 0x7F else 0x20) ∧
    (0x03 : Byte) = (if (0x06 : Byte).getLsbD 2 then 0x03 else 1) := by
  decide

-- A chip in bank 0 and a chip in bank 1.
theorem witness_InitAltSwitchesBank :
    ∀ s ∈ [t0, { t0 with target := { Target.reset with iocon := 0x80 } }],
      s.session.init = false ∧ (0x01 : Byte).getLsbD 0 = true ∧ openOK s.par 0x01 = true ∧ (s.drawAt 0).ctrl = true ∧
      capsOf s.par 0x01 = ⟨true, true⟩ ∧ (0x20 : Byte).toNat ≤ 0x7F ∧ (s.drawAt 1).bind = true ∧
      (0x20 : Byte).setWidth 7 = s.par.targetAddr ∧ s.target.availability = .answering ∧
      (∀ k : Nat, k < 4 → 2 ≤ k → (s.drawAt k).outcome = .ok ∧ (s.drawAt k).before = []) ∧
      (0x20 : Byte) = (if (0x01 : Byte).getLsbD 1 then 0x00 else 0x20) ∧
      (0x01 : Byte) = (if (0x01 : Byte).getLsbD 2 then 0x00 else 1) := by
  decide

theorem witness_InitWhileInitialisedRejected : i0.session.init = true := by decide

-- OPEN fails; FUNCS fails; a capability is missing; BIND fails on 0x80, and on a legal address.
theorem witness_InitFailsBeforeTarget :
    t0.session.init = false ∧
    openOK { t0.par with openFails := [0x01] } 0x01 = false ∧
    (openOK t0.par 0x01 = true ∧ ((coming t0 [failing false]).drawAt 0).ctrl = false) ∧
    ((t0.drawAt 0).ctrl = true ∧ capsOf { t0.par with noWriteByte := [0x01] } 0x01 ≠ ⟨true, true⟩) ∧
    (capsOf t0.par 0x01 = ⟨true, true⟩ ∧ 0x7F < (0x80 : Byte).toNat) ∧
    ((coming t0 [quiet, failing false]).drawAt 0).ctrl = true ∧ ((coming t0 [quiet, failing false]).drawAt 1).bind = false := by
  decide

-- V-I6: the write of the bank update fails.
theorem witness_FailedInitLeaksNothing :
    (coming t0 [quiet, quiet, quiet, failing true, quiet]).session.init = false ∧
    (coming t0 [quiet, quiet, quiet, failing true, quiet]).session.handleOpen = false ∧
    (coming t0 [quiet, quiet, quiet, failing true, quiet]).session.layout = .none ∧
    (nextOf (exec (.init 0 1 0) (coming t0 [quiet, quiet, quiet, failing true, quiet]))).map
      (fun t => (t.phase, t.session.init)) = some (.idle, false) := by
  decide

-- An open session, an initialised session without a handle, a closed one.
theorem witness_CleanupEndsSession :
    (i0.session.init = true ∧ i0.session.handleOpen = true) ∧
    (({ i0.session with handleOpen := false } : Session).init = true) ∧ t0.session.init = false := by
  decide

theorem witness_NotInitializedAnswers :
    t0.session.init = false ∧ t0.session.layout = .none ∧ (nextOf (exec (.init 0 0 0) t0)).isSome = true ∧
    ((0x01 : Byte) ≠ 0 ∨ (0x00 : Byte) ≠ 0) := by
  decide

-- 0x0a is no address of BANK0.
theorem witness_InvalidRegisterAnswers :
    i0.session.init = true ∧ (∀ r, addrOf i0.session.layout r ≠ some 0x0a) ∧ (0x01 : Byte) ≠ 0 := by
  refine ⟨rfl, fun r => ?_, by decide⟩
  rcases r with (_ | _) | (_ | _) | (_ | _) <;> decide

-- A Target that answers; another address bound; a Target held in reset; one that comes up and does not answer yet.
theorem witness_ReadregReturnsRegister :
    (i0.session.init = true ∧ addrOf i0.session.layout (.gpio .a) = some 0x12 ∧ NoAccessorWithin 1 i0 ∧
      i0.txOutcome = .ok ∧ layoutAgrees i0 = true ∧ i0.targetAnswers = true) ∧
    ∀ s ∈ [elsewhere i0, available i0 .heldInReset, coming (available i0 .comingUp) [stray 0x5A]],
      s.session.init = true ∧ addrOf s.session.layout (.gpio .a) = some 0x12 ∧ NoAccessorWithin 1 s ∧
        s.txOutcome = .ok ∧ s.unanswered = true := by
  decide

-- IODIR, GPIO, OLAT of port B; a write no Target answers, which completes, and which fails.
theorem witness_WriteregWritesRegister :
    (Ready 1 i1 ∧ addrOf i1.session.layout (.iodir .b) = some 0x10 ∧ addrOf i1.session.layout (.gpio .b) = some 0x19 ∧
      addrOf i1.session.layout (.olat .b) = some 0x1a) ∧
    (∀ s ∈ [elsewhere i1, available i1 .heldInReset], s.session.init = true ∧ s.unanswered = true ∧
      NoAccessorWithin 1 s ∧ addrOf s.session.layout (.olat .b) = some 0x1a ∧ s.txOutcome = .ok) ∧
    (∀ s ∈ [coming (elsewhere i1) [failing true], coming (available i1 .heldInReset) [failing true]],
      s.session.init = true ∧ s.unanswered = true ∧ NoAccessorWithin 1 s ∧
        addrOf s.session.layout (.olat .b) = some 0x1a ∧ outcomeFailed s.txOutcome = true) := by
  decide

theorem witness_SetonesSetsBits :
    Ready 2 i0 ∧ (0x80 : Byte) ≠ 0 ∧ addrOf i0.session.layout (.gpio .b) = some 0x13 := by
  decide

theorem witness_SetzerosClearsBits :
    Ready 2 i1 ∧ (0xFF : Byte) ≠ 0 ∧ addrOf i1.session.layout (.olat .a) = some 0x0a := by
  decide

theorem witness_SetonesThenSetzeros :
    Ready 4 i0 ∧ (0x03 : Byte) ≠ 0 ∧ (∀ p, LogReg.olat .b ≠ .gpio p) ∧
    addrOf i0.session.layout (.olat .b) = some 0x15 := by
  exact ⟨by decide, by decide, fun p => by cases p <;> decide, by decide⟩

theorem witness_FailedReadAnswersIoError :
    SessionUp (coming i0 [failing false]) ∧ NoAccessorWithin 1 (coming i0 [failing false]) ∧
    outcomeFailed ((coming i0 [failing false]).drawAt 0).outcome = true ∧
    addrOf (coming i0 [failing false]).session.layout (.gpio .a) = some 0x12 ∧
    addrOf (coming i0 [failing false]).session.layout (.gpio .b) = some 0x13 ∧ (0x01 : Byte) ≠ 0 := by
  decide

-- The failed write lands, and does not; the write of a read-modify-write likewise (V-R9).
theorem witness_FailedWriteMayLand :
    ∀ b ∈ [true, false],
      (let s := coming i0 [failing b]
       SessionUp s ∧ NoAccessorWithin 1 s ∧ outcomeFailed (s.drawAt 0).outcome = true ∧ (s.drawAt 0).wrote = b ∧
         addrOf s.session.layout (.gpio .a) = some 0x12 ∧ addrOf s.session.layout (.gpio .b) = some 0x13) ∧
      (let s := coming i0 [quiet, failing b]
       SessionUp s ∧ NoAccessorWithin 2 s ∧ TransactionsOk 1 s ∧ outcomeFailed (s.drawAt 1).outcome = true ∧
         (s.drawAt 1).wrote = b ∧ addrOf s.session.layout (.olat .a) = some 0x14 ∧ (0x01 : Byte) ≠ 0) := by
  decide

theorem witness_AccessorUpdateIsLost :
    let s := coming i0 [quiet, { quiet with before := [.write 0x14 0x80] }]
    SessionUp s ∧ TransactionsOk 2 s ∧ (0x01 : Byte) ≠ 0 ∧ addrOf s.session.layout (.olat .a) = some 0x14 ∧
      (s.drawAt 0).before = [] ∧ (s.drawAt 1).before = [.write 0x14 0x80] := by
  decide

theorem witness_SetoutClearsDirectionBits : Ready 4 i0 ∧ addrOf i0.session.layout (.iodir .b) = some 0x01 := by decide

theorem witness_SetinSetsDirectionBits : Ready 4 i1 ∧ addrOf i1.session.layout (.iodir .b) = some 0x10 := by decide

-- The port-B read fails, the port-B write fails (V-P2), the port-A read fails (V-P3), the port-A write fails; port B
-- alone, its read and its write failing.
theorem witness_SetoutPartialFailure :
    (∀ l ∈ [[quiet, quiet, failing true, quiet], [quiet, quiet, quiet, failing true],
        [failing false, quiet, quiet, quiet], [quiet, failing false, quiet, quiet]],
      SessionUp (coming i0 l) ∧ NoAccessorWithin 4 (coming i0 l) ∧
        addrOf (coming i0 l).session.layout (.iodir .b) = some 0x01) ∧
    (let s := coming i0 [quiet, quiet, failing true, quiet]
     TransactionsOk 2 s ∧ outcomeFailed (s.drawAt 2).outcome = true) ∧
    (let s := coming i0 [quiet, quiet, quiet, failing true]
     TransactionsOk 3 s ∧ outcomeFailed (s.drawAt 3).outcome = true) ∧
    outcomeFailed ((coming i0 [failing false, quiet, quiet, quiet]).drawAt 0).outcome = true ∧
    (let s := coming i0 [quiet, failing false, quiet, quiet]
     TransactionsOk 1 s ∧ outcomeFailed (s.drawAt 1).outcome = true) ∧
    (TransactionsOk 0 (coming i0 [failing false, quiet, quiet, quiet]) ∧ (0xF0 : Byte) ≠ 0 ∧ (0x0F : Byte) ≠ 0) ∧
    ((2 : Nat) = (if (0xF0 : Byte) = 0 then 0 else 2) ∧ (0 : Nat) = (if (0x00 : Byte) = 0 then 0 else 2)) := by
  decide

theorem witness_WriteportStoresLatch : Ready 1 i0 ∧ Ready 1 i1 := by decide

theorem witness_ReadportReadsPinsAndLatch : Ready 1 i1 ∧ NoContentionWithin 1 i1 := by decide

-- The first and the last code of each port.
theorem witness_BitCodesResolve :
    [0x00, 0x01, 0x08, 0x09, 0x10, 0x11].map validBit = [false, true, true, true, true, false] ∧
    [0x01, 0x08, 0x09, 0x10].map (fun b => (bitPort b, bitOff b)) = [(.a, 0), (.a, 7), (.b, 0), (.b, 7)] := by
  decide

-- A readable pin, a closed session, an invalid code, a failed read.
theorem witness_IsoutAnswersDirection :
    (Ready 1 i0 ∧ i0.par.isOutBTypoCompat = false ∧ validBit 0x10 = true ∧
      addrOf i0.session.layout (.iodir (bitPort 0x10)) = some 0x01) ∧
    (t0.session.init = false ∧ validBit 0x11 = false) ∧
    (SessionUp (coming i0 [failing false]) ∧ NoAccessorWithin 1 (coming i0 [failing false]) ∧
      outcomeFailed ((coming i0 [failing false]).drawAt 0).outcome = true) := by
  decide

-- An output pin; under the typo option an input pin of port B (V-B11).
theorem witness_SetbitSetsLatchBit :
    (let s := regs i0 0xFF 0x7F 0x00 0x00
     Ready 3 s ∧ validBit 0x10 = true ∧ Port.b = bitPort 0x10 ∧ testsAsOutput s 0x10 = true ∧
       addrOf s.session.layout (.iodir .b) = some 0x01 ∧ addrOf s.session.layout (.olat .b) = some 0x15 ∧
       addrOf s.session.layout (.gpio .b) = some 0x13) ∧
    (let s := typo i0
     Ready 3 s ∧ validBit 0x09 = true ∧ Port.b = bitPort 0x09 ∧ testsAsOutput s 0x09 = true ∧
       s.target.iodirB.getLsbD (bitOff 0x09) = true ∧ addrOf s.session.layout (.iodir .b) = some 0x01 ∧
       addrOf s.session.layout (.olat .b) = some 0x15 ∧ addrOf s.session.layout (.gpio .b) = some 0x13) := by
  decide

-- An output pin; under the typo option an input pin of port B.
theorem witness_ClrbitClearsLatchBit :
    (let s := regs i1 0x00 0xFF 0xFF 0x00
     Ready 3 s ∧ validBit 0x01 = true ∧ Port.a = bitPort 0x01 ∧ testsAsOutput s 0x01 = true ∧
       addrOf s.session.layout (.iodir .a) = some 0x00 ∧ addrOf s.session.layout (.olat .a) = some 0x0a ∧
       addrOf s.session.layout (.gpio .a) = some 0x09) ∧
    (let s := typo i1
     Ready 3 s ∧ validBit 0x0a = true ∧ Port.b = bitPort 0x0a ∧ testsAsOutput s 0x0a = true ∧
       s.target.iodirB.getLsbD (bitOff 0x0a) = true ∧ addrOf s.session.layout (.iodir .b) = some 0x10 ∧
       addrOf s.session.layout (.olat .b) = some 0x1a ∧ addrOf s.session.layout (.gpio .b) = some 0x19) := by
  decide

-- An invalid code, an input pin, under the typo option the first code whose check can fail (GPB2), a failed read.
theorem witness_DirectionErrorChangesNothing :
    (SessionUp i0 ∧ NoAccessorWithin 1 i0) ∧ validBit 0x00 = false ∧
    (validBit 0x08 = true ∧ addrOf i0.session.layout (.iodir (bitPort 0x08)) = some 0x00 ∧ TransactionsOk 1 i0 ∧
      testsAsOutput i0 0x08 = false) ∧
    (SessionUp (typo i0) ∧ NoAccessorWithin 1 (typo i0) ∧ TransactionsOk 1 (typo i0) ∧ validBit 0x0b = true ∧
      addrOf i0.session.layout (.iodir (bitPort 0x0b)) = some 0x01 ∧ testsAsOutput (typo i0) 0x0b = false ∧
      testsAsOutput (typo i0) 0x0a = true) ∧
    (SessionUp (coming i0 [failing false]) ∧ NoAccessorWithin 1 (coming i0 [failing false]) ∧
      outcomeFailed ((coming i0 [failing false]).drawAt 0).outcome = true) := by
  decide

-- The latch read fails (V-B7), the port write fails (V-B8).
theorem witness_SetbitIoErrors :
    (∀ l ∈ [[quiet, failing false, quiet], [quiet, quiet, failing true]],
      let s := coming (regs i0 0x00 0xFF 0x00 0x00) l
      SessionUp s ∧ NoAccessorWithin 3 s ∧ validBit 0x01 = true ∧ Port.a = bitPort 0x01 ∧
        testsAsOutput s 0x01 = true ∧ addrOf s.session.layout (.iodir .a) = some 0x00 ∧
        addrOf s.session.layout (.olat .a) = some 0x14 ∧ addrOf s.session.layout (.gpio .a) = some 0x12) ∧
    (let s := coming (regs i0 0x00 0xFF 0x00 0x00) [quiet, failing false, quiet]
     TransactionsOk 1 s ∧ outcomeFailed (s.drawAt 1).outcome = true) ∧
    (let s := coming (regs i0 0x00 0xFF 0x00 0x00) [quiet, quiet, failing true]
     TransactionsOk 2 s ∧ outcomeFailed (s.drawAt 2).outcome = true) := by
  decide

theorem witness_AllOutAllIn :
    Ready 5 i0 ∧ Ready 5 (typo i0) ∧ (typo i0).par.isOutBTypoCompat = true ∧ validBit 0x01 = true ∧
    validBit 0x0a = true ∧ validBit 0x10 = true := by
  decide

-- GPA7, GPB1 and GPB2: the codes where the answer's clauses meet.
theorem witness_TypoOptionTestsBitZero :
    let s : State := typo i0
    Ready 1 s ∧ s.par.isOutBTypoCompat = true ∧
      ∀ b ∈ [(0x08 : Byte), 0x0a, 0x0b], validBit b = true ∧ (addrOf s.session.layout (.iodir (bitPort b))).isSome = true := by
  decide

-- The read fails (V-I5), the write fails (V-I6), each hangs; a chip in bank 0 and a chip in bank 1.
theorem witness_InitAltFailsAtBankUpdate :
    (∀ l ∈ [[quiet, quiet, failing false, quiet], [quiet, quiet, quiet, failing true, quiet],
        [quiet, quiet, hanging, quiet], [quiet, quiet, quiet, hanging]],
      ∀ s ∈ [coming t0 l, coming { t0 with target := { Target.reset with iocon := 0x80 } } l],
        s.session.init = false ∧ (0x01 : Byte).getLsbD 0 = true ∧ openOK s.par 0x01 = true ∧
        (s.drawAt 0).ctrl = true ∧ capsOf s.par 0x01 = ⟨true, true⟩ ∧ (0x20 : Byte).toNat ≤ 0x7F ∧
        (s.drawAt 1).bind = true ∧ (0x20 : Byte).setWidth 7 = s.par.targetAddr ∧
        s.target.availability = .answering ∧ (s.drawAt 2).before = [] ∧ (s.drawAt 3).before = []) ∧
    outcomeFailed ((coming t0 [quiet, quiet, failing false, quiet]).drawAt 2).outcome = true ∧
    (((coming t0 [quiet, quiet, quiet, failing true, quiet]).drawAt 2).outcome = .ok ∧
      outcomeFailed ((coming t0 [quiet, quiet, quiet, failing true, quiet]).drawAt 3).outcome = true) ∧
    ((coming t0 [quiet, quiet, hanging, quiet]).drawAt 2).outcome = .hang ∧
    (((coming t0 [quiet, quiet, quiet, hanging]).drawAt 2).outcome = .ok ∧
      ((coming t0 [quiet, quiet, quiet, hanging]).drawAt 3).outcome = .hang) ∧
    (0x20 : Byte) = (if (0x01 : Byte).getLsbD 1 then 0x00 else 0x20) ∧
    (0x01 : Byte) = (if (0x01 : Byte).getLsbD 2 then 0x00 else 1) := by
  decide

theorem witness_PseudoCommands : t0.par.zeroMaskFirst = true ∧ Instr.setones 0x00 0x00 ∈ pseudoNop := by decide

end Sys2Proof.Tests
end

section
/-! What a step can do, by the move it takes (spec/00_scope.md R4, R18, spec/10_state.md R29, spec/40_session.md
R132), and the statements of spec/00_scope.md that follow from it. -/

namespace Sys2Proof.Machine

open Sys2Proof

/-! ## The move a step takes -/

theorem step_of_agenda_cons {s : State} {e : Event} {rest : List Event} (ha : s.agenda = e :: rest) :
    step s = handle e { s with agenda := rest } := by
  simp only [step, ha]

theorem step_of_agenda_nil {s : State} (ha : s.agenda = []) : step s = engineMove s := by
  simp only [step, ha]

/-! ## A word at the Engine (R18, R132) -/

section AcceptWord

variable {s : State} {k : State → Host.Outcome State Fault Refusal}

theorem acceptWord_of_exited (hx : s.exited = true) : acceptWord s k = .refused .submitAfterExit := by
  simp [acceptWord, hx]

theorem acceptWord_of_idle (hx : s.exited = false) (hp : s.phase = .idle) : acceptWord s k = k s := by
  simp [acceptWord, hx, hp]

theorem acceptWord_of_not_idle (hx : s.exited = false) (hp : s.phase ≠ .idle) :
    acceptWord s k = .refused .submitNotIdle := by
  simp [acceptWord, hx, hp]

end AcceptWord

theorem runWord_of_decode {w : CmdWord} {i : Instr} {s : State} (hd : decode w = .ok i) : runWord w s = exec i s := by
  simp only [runWord, hd]

theorem processExit_of_not_idle {s : State} (hp : s.phase ≠ .idle) : processExit s = .refused .exitNotIdle := by
  simp [processExit, hp]

/-! ## What an answered move can have done -/

/-- A command that answers a next state ended with a response or hung. -/
theorem run_next {p : Prog} {s t : State} (h : p.run s = .next t) :
    (∃ st data u, p.go s = .finished st data u ∧ t = u.respond st data) ∨
    (∃ u, p.go s = .hung u ∧ t = u.setPhase .hung) := by
  rcases run_cases p s with ⟨st, data, u, hg, hr⟩ | ⟨u, hg, hr⟩ | ⟨f, -, hr⟩ <;> rw [hr] at h <;> cases h
  · exact .inl ⟨st, data, u, hg, rfl⟩
  · exact .inr ⟨u, hg, rfl⟩

/-- A word run to its end was decoded and executed, or answered as illegal (R102, R105). -/
theorem runWord_next {w : CmdWord} {s t : State} (h : runWord w s = .next t) :
    (∃ i, decode w = .ok i ∧ (progOf i s).run s = .next t) ∨
    (∃ e, decode w = .error e ∧ t = answerIllegal s) := by
  unfold runWord at h
  cases hd : decode w with
  | ok i =>
    simp only [hd, exec_eq_run] at h
    exact .inl ⟨i, rfl, h⟩
  | error e =>
    simp only [hd] at h
    cases h
    exact .inr ⟨e, rfl, rfl⟩

/-- An Engine's move does nothing outside BUSY, and inside it answers an illegal word, or issues one operation, ends
the command or hangs (R29). -/
theorem engineMove_next {s t : State} (h : engineMove s = .next t) :
    ((s.phase = .idle ∨ s.phase = .hung) ∧ t = s) ∨
    ∃ w results, s.phase = .busy w results ∧
      ((∃ e, decode w = .error e ∧ t = answerIllegal s) ∨
        ∃ i, decode w = .ok i ∧
          ((∃ r u, ((progOf i s).resume results).move s = .issued r u ∧ t = u.setPhase (.busy w (results ++ [r]))) ∨
            (∃ st data u, ((progOf i s).resume results).move s = .finished st data u ∧ t = u.respond st data) ∨
            ∃ u, ((progOf i s).resume results).move s = .hung u ∧ t = u.setPhase .hung)) := by
  unfold engineMove at h
  cases hp : s.phase with
  | idle =>
    rw [hp] at h
    cases h
    exact .inl ⟨.inl rfl, rfl⟩
  | hung =>
    rw [hp] at h
    cases h
    exact .inl ⟨.inr rfl, rfl⟩
  | busy w results =>
    refine .inr ⟨w, results, rfl, ?_⟩
    simp only [hp] at h
    cases hd : decode w with
    | error e =>
      simp only [hd] at h
      cases h
      exact .inl ⟨e, rfl, rfl⟩
    | ok i =>
      simp only [hd] at h
      refine .inr ⟨i, rfl, ?_⟩
      split at h <;> cases h
      next r u hm => exact .inl ⟨r, u, hm, rfl⟩
      next st data u hm => exact .inr (.inl ⟨st, data, u, hm, rfl⟩)
      next u hm => exact .inr (.inr ⟨u, hm, rfl⟩)

/-- A process exit that happens finds the Engine IDLE and the process running; with the hook it runs CLEANUP's
pseudocode (R132), without it only the exit is noted. -/
theorem processExit_next {s t : State} (h : processExit s = .next t) :
    s.phase = .idle ∧ s.exited = false ∧
    ((s.session.hookRegistered = true ∧
        ((∃ st data u, (progCleanup s).go s = .finished st data u ∧ t = { u with exited := true }) ∨
          ∃ u, (progCleanup s).go s = .hung u ∧ t = u.setPhase .hung)) ∨
      (s.session.hookRegistered = false ∧ t = { s with exited := true })) := by
  unfold processExit at h
  split at h
  next hidle =>
    refine ⟨hidle.1, hidle.2, ?_⟩
    cases hk : s.session.hookRegistered with
    | false =>
      rw [hk] at h
      cases h
      exact .inr ⟨rfl, rfl⟩
    | true =>
      simp only [hk, if_true] at h
      refine .inl ⟨rfl, ?_⟩
      split at h <;> cases h
      next st data u hg => exact .inl ⟨st, data, u, hg, rfl⟩
      next u hg => exact .inr ⟨u, hg, rfl⟩
  next => cases h

/-! ## The parameters of the run (R9) -/

theorem par_of_go_finished {p : Prog} {s t : State} {st : Status} {data : Byte}
    (h : p.go s = .finished st data t) : t.par = s.par :=
  (onlyRun_go p (.inl ⟨st, data, h⟩)).par

theorem par_of_go_hung {p : Prog} {s t : State} (h : p.go s = .hung t) : t.par = s.par :=
  (onlyRun_go p (.inr h)).par

theorem run_keeps_par {p : Prog} {s t : State} (h : p.run s = .next t) : t.par = s.par := by
  rcases run_next h with ⟨st, data, u, hg, rfl⟩ | ⟨u, hg, rfl⟩
  · simpa using par_of_go_finished hg
  · simpa using par_of_go_hung hg

theorem runWord_keeps_par {w : CmdWord} {s t : State} (h : runWord w s = .next t) : t.par = s.par := by
  rcases runWord_next h with ⟨i, -, hr⟩ | ⟨e, -, rfl⟩
  · exact run_keeps_par hr
  · rfl

theorem engineMove_keeps_par {s t : State} (h : engineMove s = .next t) : t.par = s.par := by
  rcases engineMove_next h with ⟨-, rfl⟩ | ⟨w, results, -, ⟨e, -, rfl⟩ | ⟨i, -, hm⟩⟩
  · rfl
  · rfl
  · rcases hm with ⟨r, u, hm, rfl⟩ | ⟨st, data, u, hm, rfl⟩ | ⟨u, hm, rfl⟩
    · exact (onlyRun_move _ (.inl ⟨r, hm⟩)).par
    · exact (onlyRun_move _ (.inr (.inl ⟨st, data, hm⟩))).par
    · exact (onlyRun_move _ (.inr (.inr hm))).par

theorem processExit_keeps_par {s t : State} (h : processExit s = .next t) : t.par = s.par := by
  obtain ⟨-, -, ⟨-, hc⟩ | ⟨-, rfl⟩⟩ := processExit_next h
  · rcases hc with ⟨st, data, u, hg, rfl⟩ | ⟨u, hg, rfl⟩
    · simpa using par_of_go_finished hg
    · simpa using par_of_go_hung hg
  · rfl

theorem handle_keeps_par {e : Event} {s t : State} (h : handle e s = .next t) : t.par = s.par := by
  cases e with
  | submit w => exact runWord_keeps_par (acceptWord_next h)
  | start w =>
    cases acceptWord_next (k := fun s' => .next (s'.setPhase (.busy w []))) h
    rfl
  | proceed => exact engineMove_keeps_par h
  | exit => exact processExit_keeps_par h
  | engineReset => cases h; rfl
  | targetPowerOn => cases h; rfl
  | resetLineLow => cases h; rfl
  | resetLineHigh => cases h; rfl
  | targetAnswersAgain => cases h; rfl
  | accessor tx =>
    simp only [handle] at h
    split at h <;> cases h
    next htx => exact (onlyBus_accessorTx htx).par

/-- Settles O13: each move of a step, the Engine's own included, leaves the parameters. -/
theorem stepKeepsParameters : Obligations.StepKeepsParameters := by
  intro s t h
  cases ha : s.agenda with
  | nil => exact engineMove_keeps_par (step_of_agenda_nil ha ▸ h)
  | cons e rest =>
    rw [step_of_agenda_cons ha] at h
    simpa using handle_keeps_par h

/-! ## Host moves: accepted in IDLE, refused elsewhere -/

/-- Settles O6: an IDLE Engine accepts the word, and running it is `exec` of what it decodes to. -/
theorem stepRunsDecodedCommand : Obligations.StepRunsDecodedCommand := by
  intro s w rest i ha hp hx hd
  calc step s = handle (.submit w) { s with agenda := rest } := step_of_agenda_cons ha
    _ = runWord w { s with agenda := rest } := acceptWord_of_idle hx hp
    _ = exec i { s with agenda := rest } := runWord_of_decode hd

/-- A submission and a start are both words at the Engine, accepted by the same rule (R18). -/
theorem step_word_eq_acceptWord {s : State} {w : CmdWord} {rest : List Event}
    (ha : s.agenda = .submit w :: rest ∨ s.agenda = .start w :: rest) :
    ∃ k, step s = acceptWord { s with agenda := rest } k := by
  rcases ha with ha | ha
  · exact ⟨runWord w, step_of_agenda_cons ha⟩
  · exact ⟨fun s' => .next (s'.setPhase (.busy w [])), step_of_agenda_cons ha⟩

/-- Settles O9: a word is refused by `acceptWord`'s two tests, the exit first, and an exit by `processExit`'s. -/
theorem noMoveOutsideIdle : Obligations.NoMoveOutsideIdle := by
  intro s w rest
  refine ⟨fun ha => ?_, fun ha hp => ?_⟩
  · obtain ⟨k, hk⟩ := step_word_eq_acceptWord ha
    rw [hk]
    exact ⟨fun hx => acceptWord_of_exited hx, fun hx hp => acceptWord_of_not_idle hx hp⟩
  · rw [step_of_agenda_cons ha]
    exact processExit_of_not_idle hp

end Sys2Proof.Machine
end

section
/-! The shape of each command's pseudocode (spec/40_session.md to spec/43_bit_ops.md): the operations it can issue,
their number, and whether it writes the session. -/

namespace Sys2Proof.Machine

open Sys2Proof

/-! ## The shape of a command's pseudocode -/

/-- Every operation of the program is one that `A` allows, given how many operations and hook registrations stand
before it; an error at the end carries no data (R210); where `writes` is false the program writes no field of `S`. -/
def Prog.Shape (A : Nat → BusOp → Prop) (writes : Prop) : Prog → Nat → Prop
  | .done st data, _ => st ≠ .ok → data = 0
  | .assign _ k, n => writes ∧ k.Shape A writes n
  | .hook k, n => writes ∧ k.Shape A writes (n + 1)
  | .issue op k, n => A n op ∧ ∀ r, (k r).Shape A writes (n + 1)

theorem Prog.Shape.mono {A B : Nat → BusOp → Prop} {v w : Prop} (hA : ∀ n op, A n op → B n op) (hw : v → w)
    {p : Prog} {n : Nat} (h : p.Shape A v n) : p.Shape B w n := by
  induction p generalizing n with
  | done st data => exact h
  | assign f k ih => exact ⟨hw h.1, ih h.2⟩
  | hook k ih => exact ⟨hw h.1, ih h.2⟩
  | issue op k ih => exact ⟨hA n op h.1, fun r => ih r (h.2 r)⟩

section Shape

variable {A : Nat → BusOp → Prop} {writes : Prop} {n : Nat} {s : State}

@[simp] theorem shape_ret (v : Byte) : (Prog.ret v).Shape A writes n := fun h => absurd rfl h

@[simp] theorem shape_retOk : Prog.retOk.Shape A writes n := fun _ => rfl

@[simp] theorem shape_raise (st : Status) : (Prog.raise st).Shape A writes n := fun _ => rfl

@[simp] theorem shape_endWith (st : Status) : (Prog.endWith st).Shape A writes n := by
  unfold Prog.endWith
  split <;> simp

theorem shape_requireInit {k : Prog} (h : s.session.init = true → k.Shape A writes n) :
    (requireInit s k).Shape A writes n := by
  unfold requireInit
  split
  · exact h ‹_›
  · exact shape_raise _

theorem shape_requireValid {a : Byte} {k : Prog} (h : validAddr s.session.layout a = true → k.Shape A writes n) :
    (requireValid s a k).Shape A writes n := by
  unfold requireValid
  split
  · exact h ‹_›
  · exact shape_raise _

theorem shape_withAddr {r : LogReg} {k : Byte → Prog}
    (h : ∀ a, addrOf s.session.layout r = some a → (k a).Shape A writes n) : (withAddr s r k).Shape A writes n := by
  unfold withAddr
  split
  · exact h _ ‹_›
  · exact shape_raise _

theorem shape_readOr {a : Byte} {k : Byte → Prog} (hr : A n (.read a)) (h : ∀ v, (k v).Shape A writes (n + 1)) :
    (readOr a k).Shape A writes n := by
  refine ⟨hr, fun r => ?_⟩
  cases r with
  | byte v => exact h v
  | ok | caps | fail => exact shape_raise _

theorem shape_writeAndReturn {a v : Byte} (hw : A n (.write a v)) : (writeAndReturn a v).Shape A writes n := by
  refine ⟨hw, fun r => ?_⟩
  cases r with
  | ok => exact shape_retOk
  | byte | caps | fail => exact shape_raise _

theorem shape_rmwAt {a m : Byte} {op : RmwOp} {k : Status → Prog} (hr : A n (.read a))
    (hw : ∀ v, A (n + 1) (.write a v)) (h : ∀ st j, n ≤ j → j ≤ n + 2 → (k st).Shape A writes j) :
    (rmwAt a op m k).Shape A writes n := by
  refine ⟨hr, fun r => ?_⟩
  cases r with
  | byte v =>
    refine ⟨hw _, fun r' => ?_⟩
    cases r' <;> exact h _ _ (by omega) (by omega)
  | ok | caps | fail => exact h _ _ (by omega) (by omega)

theorem shape_zeroMask {m : Byte} {checks : Prog → Prog} {skip body : Prog}
    (hc : ∀ q, (q = skip ∨ q = body) → (checks q).Shape A writes n) (hs : skip.Shape A writes n) :
    (zeroMask s m checks skip body).Shape A writes n := by
  unfold zeroMask
  split
  · split
    · exact hs
    · exact hc _ (.inr rfl)
  · split
    · exact hc _ (.inl rfl)
    · exact hc _ (.inr rfl)

theorem shape_isoutBody {b : Byte} {k : Bool → Prog}
    (hr : ∀ a, s.session.init = true → addrOf s.session.layout (.iodir (bitPort b)) = some a → A n (.read a))
    (h : ∀ isOut j, n ≤ j → j ≤ n + 1 → (k isOut).Shape A writes j) : (isoutBody b s k).Shape A writes n := by
  unfold isoutBody
  split
  · rename_i hi
    split
    · rename_i a ha
      refine ⟨hr a (by simp_all) ha, fun r => ?_⟩
      cases r <;> exact h _ _ (by omega) (by omega)
    · exact h _ _ (by omega) (by omega)
  · exact h _ _ (by omega) (by omega)

end Shape

/-- INIT and CLEANUP are the commands with a meaning of their own for the session (R22, R120, R131). -/
theorem Instr.init_or_cleanup_or_data (i : Instr) :
    (∃ sla flg bus, i = .init sla flg bus) ∨ i = .cleanup ∨
      ((∀ sla flg bus, i ≠ .init sla flg bus) ∧ i ≠ .cleanup) := by
  cases i <;> simp

/-- The operation is a data transaction at the address of a logical register, of an initialised session (R12, R54,
R55), and fewer than four operations stand before it. -/
def DataOp (s : State) (n : Nat) (op : BusOp) : Prop :=
  n < 4 ∧ s.session.init = true ∧
    ∃ r a, addrOf s.session.layout r = some a ∧ (op = .read a ∨ ∃ v, op = .write a v)

theorem dataOp_read {s : State} {n : Nat} {r : LogReg} {a : Byte} (hn : n < 4) (hi : s.session.init = true)
    (ha : addrOf s.session.layout r = some a) : DataOp s n (.read a) :=
  ⟨hn, hi, r, a, ha, .inl rfl⟩

theorem dataOp_write {s : State} {n : Nat} {r : LogReg} {a : Byte} (hn : n < 4) (hi : s.session.init = true)
    (ha : addrOf s.session.layout r = some a) (v : Byte) : DataOp s n (.write a v) :=
  ⟨hn, hi, r, a, ha, .inr ⟨v, rfl⟩⟩

section DataShape

variable {s : State}

theorem shape_readreg (reg : Byte) : (progReadreg reg s).Shape (DataOp s) False 0 :=
  shape_requireInit fun hi => shape_requireValid fun hv =>
    have ⟨_, ha⟩ := exists_of_validAddr hv
    shape_readOr (dataOp_read (by omega) hi ha) fun v => shape_ret v

theorem shape_writereg (reg val : Byte) : (progWritereg reg val s).Shape (DataOp s) False 0 :=
  shape_requireInit fun hi => shape_requireValid fun hv =>
    have ⟨_, ha⟩ := exists_of_validAddr hv
    shape_writeAndReturn (dataOp_write (by omega) hi ha val)

/-- SETONES and SETZEROS (R146 to R148). -/
theorem shape_regRmw (reg mask : Byte) (op : RmwOp) :
    (zeroMask s mask (fun k => requireInit s (requireValid s reg k)) .retOk (rmwAt reg op mask .endWith)).Shape
      (DataOp s) False 0 := by
  refine shape_zeroMask (fun q hq => shape_requireInit fun hi => shape_requireValid fun hv => ?_) shape_retOk
  obtain ⟨_, ha⟩ := exists_of_validAddr hv
  rcases hq with rfl | rfl
  · exact shape_retOk
  · exact shape_rmwAt (dataOp_read (by omega) hi ha) (dataOp_write (by omega) hi ha) fun st _ _ _ => shape_endWith st

theorem shape_rmw1 {r : LogReg} {op : RmwOp} {m : Byte} {k : Status → Prog} {n : Nat} (hn : n ≤ 2)
    (h : ∀ st j, n ≤ j → j ≤ n + 2 → (k st).Shape (DataOp s) False j) :
    (rmw1 s r op m k).Shape (DataOp s) False n := by
  refine shape_zeroMask (fun q hq => shape_requireInit fun hi => ?_) (h _ _ (by omega) (by omega))
  rcases hq with rfl | rfl
  · exact h _ _ (by omega) (by omega)
  · exact shape_withAddr fun a ha =>
      shape_rmwAt (dataOp_read (by omega) hi ha) (dataOp_write (by omega) hi ha) h

/-- SETOUT and SETIN (R170, R171). -/
theorem shape_rmwBothDirs (op : RmwOp) (maskA maskB : Byte) :
    (rmwBothDirs s op maskA maskB).Shape (DataOp s) False 0 := by
  refine shape_rmw1 (by omega) fun st j _ hj => ?_
  split
  · exact shape_rmw1 (by omega) fun st' _ _ _ => shape_endWith st'
  · exact shape_raise st

theorem shape_wrport (r : LogReg) (val : Byte) :
    (requireInit s (withAddr s r fun a => writeAndReturn a val)).Shape (DataOp s) False 0 :=
  shape_requireInit fun hi => shape_withAddr fun _ ha => shape_writeAndReturn (dataOp_write (by omega) hi ha val)

theorem shape_rdport (r : LogReg) :
    (requireInit s (withAddr s r fun a => readOr a .ret)).Shape (DataOp s) False 0 :=
  shape_requireInit fun hi => shape_withAddr fun _ ha =>
    shape_readOr (dataOp_read (by omega) hi ha) fun v => shape_ret v

theorem shape_isout (bit : Byte) : (progIsout bit s).Shape (DataOp s) False 0 :=
  shape_isoutBody (fun _ hi ha => dataOp_read (by omega) hi ha) fun _ _ _ _ => shape_ret _

/-- SETBIT and CLRBIT (R194 to R196). -/
theorem shape_bitRmw (op : RmwOp) (bit : Byte) : (bitRmw op bit s).Shape (DataOp s) False 0 := by
  refine shape_requireInit fun hi =>
    shape_isoutBody (fun _ hi ha => dataOp_read (by omega) hi ha) fun isOut j _ hj => ?_
  split
  · exact shape_withAddr fun aLatch hl => shape_withAddr fun aPort hp =>
      shape_readOr (dataOp_read (by omega) hi hl) fun v => shape_writeAndReturn (dataOp_write (by omega) hi hp _)
  · exact shape_raise _

end DataShape

/-- Every command but INIT and CLEANUP issues data transactions at logical registers only, at most four, and writes no
field of the session. -/
theorem shape_progOf_data {i : Instr} (s : State) (hinit : ∀ sla flg bus, i ≠ .init sla flg bus)
    (hcleanup : i ≠ .cleanup) : (progOf i s).Shape (DataOp s) False 0 := by
  cases i with
  | init sla flg bus => exact absurd rfl (hinit sla flg bus)
  | cleanup => exact absurd rfl hcleanup
  | valreg reg => exact shape_ret _
  | readreg reg => exact shape_readreg reg
  | getreg reg => exact shape_readreg reg
  | writereg reg val => exact shape_writereg reg val
  | setones reg mask => exact shape_regRmw reg mask .or
  | setzeros reg mask => exact shape_regRmw reg mask .andnot
  | setout maskA maskB => exact shape_rmwBothDirs .andnot maskA maskB
  | setin maskA maskB => exact shape_rmwBothDirs .or maskA maskB
  | wrporta val => exact shape_wrport (.gpio .a) val
  | wrportb val => exact shape_wrport (.gpio .b) val
  | rdporta => exact shape_rdport (.gpio .a)
  | rdportb => exact shape_rdport (.gpio .b)
  | isout bit => exact shape_isout bit
  | setbit bit => exact shape_bitRmw .or bit
  | clrbit bit => exact shape_bitRmw .andnot bit

/-- The operation is one of INIT's: a control operation, or a data transaction at the configuration register's address
before the fifth operation (R120); the CLOSE of ABORT is the sixth at most (log entry 17). -/
def InitOp (n : Nat) (op : BusOp) : Prop :=
  n < 6 ∧
    match op with
    | .openBus _ => n = 0
    | .funcs => True
    | .bind _ => True
    | .close => True
    | .read a => n < 5 ∧ a = ioconAddr
    | .write a _ => n < 5 ∧ a = ioconAddr

theorem shape_abortInit (st : Status) {n : Nat} (hn : n < 6) : (abortInit st).Shape InitOp True n :=
  ⟨⟨hn, trivial⟩, fun _ => ⟨trivial, shape_raise st⟩⟩

theorem shape_finishInit (l : Layout) (n : Nat) : (finishInit l).Shape InitOp True n :=
  ⟨trivial, trivial, shape_retOk⟩

theorem shape_initBank : initBank.Shape InitOp True 3 := by
  refine ⟨⟨by omega, by omega, rfl⟩, fun r => ?_⟩
  cases r with
  | byte v =>
    refine ⟨⟨by omega, by omega, rfl⟩, fun r' => ?_⟩
    cases r' with
    | ok => exact shape_finishInit .bank1 5
    | byte | caps | fail => exact shape_abortInit .ioError (by omega)
  | ok | caps | fail => exact shape_abortInit .ioError (by omega)

theorem shape_progInit (sla flg bus : Byte) (s : State) : (progInit sla flg bus s).Shape InitOp True 0 := by
  unfold progInit
  split
  · exact shape_raise _
  · refine ⟨trivial, ⟨by omega, rfl⟩, fun opened => ?_⟩
    cases opened with
    | ok =>
      refine ⟨trivial, ⟨by omega, trivial⟩, fun funcs => ?_⟩
      cases funcs with
      | caps c =>
        dsimp only
        split
        · refine ⟨⟨by omega, trivial⟩, fun bound => ?_⟩
          cases bound with
          | ok =>
            refine ⟨trivial, ?_⟩
            split
            · exact shape_initBank
            · exact shape_finishInit .bank0 3
          | byte | caps | fail => exact shape_abortInit .ioError (by omega)
        · exact shape_abortInit .capabilityError (by omega)
      | ok | byte | fail => exact shape_abortInit .ioError (by omega)
    | byte | caps | fail => exact ⟨trivial, shape_raise _⟩

/-- CLEANUP issues one CLOSE at most (R131). -/
theorem shape_progCleanup (s : State) : (progCleanup s).Shape (fun n op => n < 1 ∧ op = .close) True 0 := by
  unfold progCleanup
  split
  · refine ⟨trivial, ?_⟩
    split
    · exact ⟨⟨by omega, rfl⟩, fun _ => ⟨trivial, trivial, shape_retOk⟩⟩
    · exact ⟨trivial, shape_retOk⟩
  · exact shape_retOk

/-- No command issues more than six operations (R258, log entry 17). -/
theorem shape_progOf (i : Instr) (s : State) : (progOf i s).Shape (fun n _ => n < 6) True 0 := by
  rcases Instr.init_or_cleanup_or_data i with ⟨sla, flg, bus, rfl⟩ | rfl | ⟨hinit, hcleanup⟩
  · exact (shape_progInit sla flg bus s).mono (fun n op h => h.1) id
  · exact (shape_progCleanup s).mono (fun n op h => by omega) id
  · exact (shape_progOf_data s hinit hcleanup).mono (fun n op h => h.1.trans (by omega)) False.elim

end Sys2Proof.Machine
end

section
/-! The session along the moves of a command (spec/10_state.md R22 to R29), whatever results its operations had. -/

namespace Sys2Proof.Machine

open Sys2Proof

/-! ## The session along the moves of a command (R22 to R29) -/

/-- `I` holds of the session at the program's next operation, `E` at its end where it has no operation. -/
def Prog.Until (I E : Session → Prop) : Prog → Session → Prop
  | .done _ _, S => E S
  | .assign f k, S => k.Until I E (f S)
  | .hook k, S => ∀ b, k.Until I E { S with hookRegistered := b }
  | .issue _ _, S => I S

theorem Prog.Until.mono {I I' E E' : Session → Prop} (hI : ∀ S, I S → I' S) (hE : ∀ S, E S → E' S) {p : Prog}
    {S : Session} (h : p.Until I E S) : p.Until I' E' S := by
  induction p generalizing S with
  | done st data => exact hE S h
  | assign f k ih => exact ih h
  | hook k ih => exact fun b => ih (h b)
  | issue op k ih => exact hI S h

/-- What a move leaves: `I` of the session if an operation completed or hung, `E` of it if the command ended. -/
def Moved.Leaves (I E : Session → Prop) (m : Moved) : Prop :=
  match m with
  | .issued _ t => I t.session
  | .finished _ _ t => E t.session
  | .hung t => I t.session
  | .fault _ => True

theorem until_move {I E : Session → Prop} {p : Prog} {s : State} (h : p.Until I E s.session) :
    (p.move s).Leaves I E := by
  induction p generalizing s with
  | done st data => exact h
  | assign f k ih => exact ih h
  | hook k ih => exact ih (h _)
  | issue op k ih =>
    have hI : I s.session := h
    simp only [Prog.move]
    cases ho : perform op s with
    | completed r t =>
      have hs : t.session = s.session := (onlyBus_perform (.inl ho)).session
      simpa [Moved.Leaves, hs] using hI
    | never t =>
      have hs : t.session = s.session := (onlyBus_perform (r := .ok) (.inr ho)).session
      simpa [Moved.Leaves, hs] using hI
    | fault f => trivial

/-- From BUSY(cmd, n) on, whatever the results of the operations: where `H n` holds of the session after n operations,
`H (n + 1)` does after the next one, and `E` at the end. -/
def Prog.Steady (H : Nat → Session → Prop) (E : Session → Prop) (p : Prog) (n : Nat) : Prop :=
  ∀ rs S, H (n + rs.length) S → (p.resume rs).Until (H (n + rs.length + 1)) E S

/-- With no result yet the whole program is left. -/
@[simp] theorem resume_nil (p : Prog) : p.resume [] = p := by cases p <;> rfl

section Steady

variable {H : Nat → Session → Prop} {E : Session → Prop} {p : Prog} {n : Nat}

/-- A program whose next operation goes on with `k`. -/
theorem steady_of_issuing {k : TxResult → Prog} (hr : ∀ r rs, p.resume (r :: rs) = (k r).resume rs)
    (h : ∀ S, H n S → (p.resume []).Until (H (n + 1)) E S) (hk : ∀ r, (k r).Steady H E (n + 1)) : p.Steady H E n := by
  intro rs S hS
  cases rs with
  | nil => exact h S hS
  | cons r rs =>
    rw [hr]
    have e : n + (r :: rs).length = n + 1 + rs.length := by simp; omega
    rw [e] at hS ⊢
    exact hk r rs S hS

/-- A program that ends without an operation. -/
theorem steady_of_ending (hr : ∀ r rs, ∃ st data, p.resume (r :: rs) = .done st data) (hE : ∀ m S, H m S → E S)
    (h : ∀ S, H n S → (p.resume []).Until (H (n + 1)) E S) : p.Steady H E n := by
  intro rs S hS
  cases rs with
  | nil => exact h S hS
  | cons r rs =>
    obtain ⟨st, data, hd⟩ := hr r rs
    rw [hd]
    exact hE _ S hS

/-- A field of `S` written before the next operation. -/
theorem steady_assign {f : Session → Session} (hf : ∀ S, H n S → H n (f S)) (hp : p.Steady H E n) :
    (Prog.assign f p).Steady H E n := by
  intro rs S hS
  cases rs with
  | nil =>
    have h := hp [] (f S) (hf S hS)
    rw [resume_nil] at h
    exact h
  | cons r rs => exact hp (r :: rs) S hS

end Steady

/-- A program that writes no session field leaves the session as it is. -/
theorem steady_of_no_writes {A : Nat → BusOp → Prop} {p : Prog} {n m : Nat} (S₀ : Session)
    (h : p.Shape A False n) : p.Steady (fun _ S => S = S₀) (fun S => S = S₀) m := by
  induction p generalizing n m with
  | done st data => exact steady_of_ending (fun _ _ => ⟨st, data, rfl⟩) (fun _ _ hS => hS) fun _ hS => hS
  | assign f k ih => exact h.1.elim
  | hook k ih => exact h.1.elim
  | issue op k ih => exact steady_of_issuing (fun _ _ => rfl) (fun _ hS => hS) fun r => ih r (h.2 r)

/-- INIT after n operations: the session is not initialised, its layout is still `l`, and from the second operation on
its handle is open (R120). -/
structure InitUnderway (l : Layout) (n : Nat) (S : Session) : Prop where
  notInit : S.init = false
  layout : S.layout = l
  handle : 2 ≤ n → S.handleOpen = true

/-- INIT at its end: a session with a handle and a layout, or none (R120, R123, R126). -/
def InitEnded (l : Layout) (S : Session) : Prop :=
  (S.init = false ∧ (S.layout = l ∨ S.layout = .none)) ∨
    (S.init = true ∧ S.handleOpen = true ∧ S.layout ≠ .none)

section InitSteady

variable {l : Layout} {n : Nat}

theorem InitUnderway.ended {S : Session} (h : InitUnderway l n S) : InitEnded l S := .inl ⟨h.notInit, .inl h.layout⟩

theorem InitUnderway.next {S : Session} (h : InitUnderway l n S) (hn : 2 ≤ n) : InitUnderway l (n + 1) S :=
  ⟨h.notInit, h.layout, fun _ => h.handle hn⟩

theorem steady_abortInit (st : Status) (hn : 2 ≤ n) :
    (abortInit st).Steady (InitUnderway l) (InitEnded l) n :=
  steady_of_issuing (fun _ _ => rfl) (fun _ hS => hS.next hn) fun _ =>
    steady_of_ending (fun _ _ => ⟨st, 0, rfl⟩) (fun _ _ hS => hS.ended) fun _ hS => .inl ⟨hS.notInit, .inr rfl⟩

theorem steady_finishInit {l' : Layout} (hl' : l' ≠ .none) (hn : 2 ≤ n) :
    (finishInit l').Steady (InitUnderway l) (InitEnded l) n :=
  steady_of_ending (fun _ _ => ⟨.ok, 0, rfl⟩) (fun _ _ hS => hS.ended) fun _ hS _ =>
    .inr ⟨rfl, hS.handle hn, hl'⟩

theorem steady_initBank (hn : 2 ≤ n) : initBank.Steady (InitUnderway l) (InitEnded l) n := by
  refine steady_of_issuing (fun _ _ => rfl) (fun _ hS => hS.next hn) fun r => ?_
  cases r with
  | byte v =>
    refine steady_of_issuing (fun _ _ => rfl) (fun _ hS => hS.next (by omega)) fun r' => ?_
    cases r' with
    | ok => exact steady_finishInit (by decide) (by omega)
    | byte | caps | fail => exact steady_abortInit .ioError (by omega)
  | ok | caps | fail => exact steady_abortInit .ioError (by omega)

/-- INIT of a session that is not initialised. -/
theorem steady_progInit (sla flg bus : Byte) {s : State} (hi : s.session.init = false) :
    (progInit sla flg bus s).Steady (InitUnderway l) (InitEnded l) 0 := by
  simp only [progInit, hi, Bool.false_eq_true, if_false]
  refine steady_of_issuing (fun _ _ => rfl) (fun _ hS => ⟨hS.notInit, hS.layout, by omega⟩) fun opened => ?_
  cases opened with
  | ok =>
    refine steady_of_issuing (fun _ _ => rfl) (fun _ hS => ⟨hS.notInit, hS.layout, fun _ => rfl⟩) fun funcs => ?_
    cases funcs with
    | caps c =>
      dsimp only
      split
      · refine steady_of_issuing (fun _ _ => rfl) (fun _ hS => hS.next (by omega)) fun bound => ?_
        cases bound with
        | ok =>
          refine steady_assign (fun _ hS => ⟨hS.notInit, hS.layout, hS.handle⟩) ?_
          split
          · exact steady_initBank (by omega)
          · exact steady_finishInit (by decide) (by omega)
        | byte | caps | fail => exact steady_abortInit .ioError (by omega)
      · exact steady_abortInit .capabilityError (by omega)
    | ok | byte | fail => exact steady_abortInit .ioError (by omega)
  | byte | caps | fail =>
    exact steady_of_ending (fun _ _ => ⟨.ioError, 0, rfl⟩) (fun _ _ hS => hS.ended)
      fun _ hS => .inl ⟨hS.notInit, .inl hS.layout⟩

end InitSteady

/-- The session of a CLEANUP that has a handle to close, and after its CLOSE (R131). -/
structure CleanupUnderway (l : Layout) (S : Session) : Prop where
  isInit : S.init = true
  handle : S.handleOpen = true
  layout : S.layout = l

/-- CLEANUP at its end: the session is over, or as it was (R131). -/
def CleanupEnded (l : Layout) (S : Session) : Prop := CleanupUnderway l S ∨ (S.init = false ∧ S.layout = .none)

/-- CLEANUP of an open session. -/
theorem steady_progCleanup {l : Layout} {s : State} (hi : s.session.init = true) (ho : s.session.handleOpen = true) :
    (progCleanup s).Steady (fun _ => CleanupUnderway l) (CleanupEnded l) 0 := by
  simp only [progCleanup, hi, ho, if_true]
  exact steady_of_issuing (fun _ _ => rfl) (fun _ hS => ⟨hS.isInit, hS.handle, hS.layout⟩) fun _ =>
    steady_of_ending (fun _ _ => ⟨.ok, 0, rfl⟩) (fun _ _ hS => .inl hS) fun _ _ => .inr ⟨rfl, rfl⟩

end Sys2Proof.Machine
end

section
/-! Process exit (spec/40_session.md R132), and what makes the two forms of a command's run agree (spec/10_state.md
R29): no operation looks at the phase, and a run is its first move and then the rest. -/

namespace Sys2Proof.Machine

open Sys2Proof

/-! ## Process exit (R132) -/

/-- The state CLEANUP leaves of an open session: the handle closed, the session over (R131). -/
def State.afterCleanup (s : State) : State :=
  { s with
    session := { s.session with init := false, pathOwned := false, handleOpen := false, layout := .none }
    draws := s.draws.drop 1
    drawn := s.drawn + 1
    log := s.log ++ [.control .close (if (s.drawAt 0).ctrl then .ok else .fail)] }

theorem go_progCleanup_of_open {s : State} (hi : s.session.init = true) (ho : s.session.handleOpen = true) :
    (progCleanup s).go s = .finished .ok 0 s.afterCleanup := by
  simp only [progCleanup, hi, ho, if_true, State.afterCleanup, List.drop_one]
  rfl

theorem progCleanup_of_no_handle {s : State} (hi : s.session.init = true) (ho : s.session.handleOpen = false) :
    progCleanup s = .assign (fun S => { S with pathOwned := false }) endCleanup := by
  simp [progCleanup, hi, ho]

theorem processExit_of_open {s : State} (hp : s.phase = .idle) (hx : s.exited = false)
    (hk : s.session.hookRegistered = true) (hi : s.session.init = true) (ho : s.session.handleOpen = true) :
    processExit s = .next { s.afterCleanup with exited := true } := by
  simp [processExit, hp, hx, hk, go_progCleanup_of_open hi ho]

theorem processExit_of_no_session {s : State} (hp : s.phase = .idle) (hx : s.exited = false)
    (h : s.session.hookRegistered = false ∨ s.session.init = false) :
    processExit s = .next { s with exited := true } := by
  cases hk : s.session.hookRegistered with
  | false => simp [processExit, hp, hx, hk]
  | true =>
    have hi : s.session.init = false := by simpa [hk] using h
    simp [processExit, hp, hx, hk, progCleanup, hi, Prog.retOk, Prog.go]

/-! ## The phase plays no part in a command (R29) -/

@[simp] theorem targetAnswers_setPhase (s : State) (p : Phase) : (s.setPhase p).targetAnswers = s.targetAnswers := rfl

@[simp] theorem addressesTarget_setPhase (s : State) (p : Phase) :
    (s.setPhase p).addressesTarget = s.addressesTarget := rfl

@[simp] theorem txOutcome_setPhase (s : State) (p : Phase) : (s.setPhase p).txOutcome = s.txOutcome := rfl

@[simp] theorem setPhase_record (s : State) (p : Phase) (e : BusEvent) :
    (s.setPhase p).record e = (s.record e).setPhase p := rfl

@[simp] theorem setPhase_setTarget (s : State) (p : Phase) (t : Target) :
    (s.setPhase p).setTarget t = (s.setTarget t).setPhase p := rfl

theorem accessorTx_setPhase (tx : OtherTx) (s : State) (p : Phase) :
    (s.setPhase p).accessorTx tx = (s.accessorTx tx).map (State.setPhase p) := by
  by_cases hv : s.target.availability = .answering
  · cases tx with
    | read a => cases hd : s.target.decode a <;> simp [State.accessorTx, hv, hd, Except.map]
    | write a v => cases hd : s.target.decode a <;> simp [State.accessorTx, hv, hd, Except.map]
  · simp [State.accessorTx, hv, Except.map]

theorem accessorTxs_setPhase (l : List OtherTx) (s : State) (p : Phase) :
    (s.setPhase p).accessorTxs l = (s.accessorTxs l).map (State.setPhase p) := by
  induction l generalizing s with
  | nil => rfl
  | cons tx l ih =>
    simp only [State.accessorTxs, accessorTx_setPhase]
    cases s.accessorTx tx with
    | error f => rfl
    | ok t => exact ih t

theorem beforeTx_setPhase (s : State) (p : Phase) :
    (s.setPhase p).beforeTx = s.beforeTx.map (State.setPhase p) := by
  unfold State.beforeTx
  rw [← accessorTxs_setPhase]
  cases ha : s.addressesTarget <;> simp [ha] <;> rfl

/-- An operation's end with the phase replaced. -/
def Perf.setPhase (p : Phase) : Perf → Perf
  | .completed r s => .completed r (s.setPhase p)
  | .never s => .never (s.setPhase p)
  | .fault f => .fault f

theorem endRead_setPhase (a v : Byte) (o : TxOutcome) (s : State) (p : Phase) :
    (s.setPhase p).endRead a v o = (s.endRead a v o).setPhase p := by
  cases o <;> rfl

theorem endWrite_setPhase (a v : Byte) (o : TxOutcome) (s : State) (p : Phase) :
    (s.setPhase p).endWrite a v o = (s.endWrite a v o).setPhase p := by
  cases o <;> rfl

theorem memRead_setPhase (a : Byte) (s : State) (p : Phase) : (s.setPhase p).memRead a = (s.memRead a).setPhase p := by
  unfold State.memRead
  rw [beforeTx_setPhase]
  cases s.beforeTx with
  | error f => rfl
  | ok u =>
    cases ht : u.targetAnswers with
    | false => simpa [Except.map, ht] using endRead_setPhase ..
    | true =>
      cases hd : u.target.decode a with
      | none => simp [Except.map, ht, hd, Perf.setPhase]
      | some r => simpa [Except.map, ht, hd] using endRead_setPhase ..

theorem memWrite_setPhase (a v : Byte) (s : State) (p : Phase) :
    (s.setPhase p).memWrite a v = (s.memWrite a v).setPhase p := by
  unfold State.memWrite
  rw [beforeTx_setPhase]
  cases s.beforeTx with
  | error f => rfl
  | ok u =>
    cases ht : u.targetAnswers with
    | false => simpa [Except.map, ht] using endWrite_setPhase ..
    | true =>
      cases hd : u.target.decode a with
      | none => simp [Except.map, ht, hd, Perf.setPhase]
      | some r =>
        cases hw : writeLands s.txOutcome (s.drawAt 0).wrote with
        | false => simpa [Except.map, ht, hd, hw] using endWrite_setPhase ..
        | true =>
          simpa [Except.map, ht, hd, hw] using endWrite_setPhase a v s.txOutcome (u.setTarget (u.target.write r v)) p

theorem perform_setPhase (op : BusOp) (s : State) (p : Phase) :
    perform op (s.setPhase p) = (perform op s).setPhase p := by
  cases op with
  | openBus bus => rfl
  | funcs => rfl
  | bind addr => rfl
  | close => rfl
  | read a => exact memRead_setPhase a s p
  | write a v => exact memWrite_setPhase a v s p

/-- A command ends in the same outcome from any phase. -/
theorem run_setPhase (q : Prog) (s : State) (p : Phase) : q.run (s.setPhase p) = q.run s := by
  induction q generalizing s with
  | done st data => rfl
  | assign f k ih => exact ih (s.mapSession f)
  | hook k ih => exact ih s.tryHook
  | issue op k ih =>
    have ho := perform_setPhase op s p
    cases h : perform op s with
    | completed r t =>
      rw [h] at ho
      rw [run_issue h, run_issue ho]
      exact ih r t
    | never t =>
      rw [h] at ho
      rw [run_issue_never h, run_issue_never ho]
      rfl
    | fault f =>
      rw [h] at ho
      rw [run_issue_fault h, run_issue_fault ho]

/-! ## A command one operation a move (R29, R83) -/

/-- The outcome of a command from the end of its next move: what is left runs on from there. -/
def Prog.runFrom (q : Prog) (m : Moved) : Host.Outcome State Fault Refusal :=
  match m with
  | .issued r t => (q.resume [r]).run t
  | .finished st data t => .next (t.respond st data)
  | .hung t => .next (t.setPhase .hung)
  | .fault f => .fault f

/-- A command is its first move and then the rest. -/
theorem run_eq_runFrom_move (q : Prog) (s : State) : q.run s = q.runFrom (q.move s) := by
  induction q generalizing s with
  | done st data => rfl
  | assign f k ih => exact ih (s.mapSession f)
  | hook k ih => exact ih s.tryHook
  | issue op k ih =>
    cases h : perform op s with
    | completed r t => simp [run_issue h, Prog.move, h, Prog.runFrom, Prog.resume]
    | never t => simp [run_issue_never h, Prog.move, h, Prog.runFrom]
    | fault f => simp [run_issue_fault h, Prog.move, h, Prog.runFrom]

theorem resume_append (q : Prog) (rs rs' : List TxResult) : (q.resume rs).resume rs' = q.resume (rs ++ rs') := by
  induction q generalizing rs with
  | done st data => rfl
  | assign f k ih =>
    cases rs with
    | nil => rfl
    | cons r rs => exact ih (r :: rs)
  | hook k ih =>
    cases rs with
    | nil => rfl
    | cons r rs => exact ih (r :: rs)
  | issue op k ih =>
    cases rs with
    | nil => rfl
    | cons r rs => exact ih r rs

/-- After a move that issued an operation, fewer operations are left. -/
theorem shape_resume_of_issued {N n : Nat} {writes : Prop} {q : Prog} {s t : State} {r : TxResult}
    (h : q.Shape (fun m _ => m < N) writes n) (hm : q.move s = .issued r t) :
    ∃ m, n < m ∧ m ≤ N ∧ (q.resume [r]).Shape (fun m _ => m < N) writes m := by
  induction q generalizing n s with
  | done st data => cases hm
  | assign f k ih => exact ih h.2 hm
  | hook k ih =>
    obtain ⟨m, hn, hN, hs⟩ := ih h.2 hm
    exact ⟨m, by omega, hN, hs⟩
  | issue op k ih => exact ⟨n + 1, by omega, h.1, by simpa [Prog.resume] using h.2 r⟩

end Sys2Proof.Machine
end

section
/-! The moves of a BUSY Engine, and that they end where the command run as a whole ends (spec/10_state.md R29, R83). -/

namespace Sys2Proof.Machine

open Sys2Proof

/-! ## Engine moves of a BUSY Engine -/

/-- The Engine's answer to a move of the command in `BUSY(w, rs)` (R29). -/
def Moved.answer (w : CmdWord) (rs : List TxResult) : Moved → Host.Outcome State Fault Refusal
  | .issued r t => .next (t.setPhase (.busy w (rs ++ [r])))
  | .finished st data t => .next (t.respond st data)
  | .hung t => .next (t.setPhase .hung)
  | .fault f => .fault f

theorem engineMove_of_busy {s : State} {w : CmdWord} {rs : List TxResult} {i : Instr} (hp : s.phase = .busy w rs)
    (hd : decode w = .ok i) : engineMove s = (((progOf i s).resume rs).move s).answer w rs := by
  simp only [engineMove, hp, hd]
  cases ((progOf i s).resume rs).move s <;> rfl

theorem engineMove_of_busy_illegal {s : State} {w : CmdWord} {rs : List TxResult} {e : DecodeError}
    (hp : s.phase = .busy w rs) (hd : decode w = .error e) : engineMove s = .next (answerIllegal s) := by
  simp only [engineMove, hp, hd]

theorem engineMoves_of_not_busy {s : State} (hp : s.phase = .idle ∨ s.phase = .hung) (n : Nat) :
    engineMoves n s = .next s := by
  cases n with
  | zero => rfl
  | succ n => rcases hp with hp | hp <;> simp [engineMoves, hp]

section Busy

variable {s t : State} {w : CmdWord} {rs : List TxResult}

theorem engineMoves_succ_of_next (hp : s.phase = .busy w rs) (h : engineMove s = .next t) (n : Nat) :
    engineMoves (n + 1) s = engineMoves n t := by
  simp only [engineMoves, hp, h]

theorem engineMoves_succ_of_fault {f : Fault} (hp : s.phase = .busy w rs) (h : engineMove s = .fault f) (n : Nat) :
    engineMoves (n + 1) s = .fault f := by
  simp only [engineMoves, hp, h]

end Busy

/-- Where the session's condition `H` keeps a command's pseudocode the same along its moves, a BUSY Engine with enough
moves left ends where the rest of the command run as a whole ends. -/
theorem engineMoves_eq_run {w : CmdWord} {i : Instr} {s : State} {H : Nat → Session → Prop} {E : Session → Prop}
    (hd : decode w = .ok i) (hH : ∀ n (u : State), H n u.session → u.par = s.par → progOf i u = progOf i s)
    (hs : (progOf i s).Steady H E 0) (fuel : Nat) {rs : List TxResult} {n : Nat} {u : State}
    (hp : u.phase = .busy w rs) (hpar : u.par = s.par) (hu : H rs.length u.session)
    (hshape : ((progOf i s).resume rs).Shape (fun m _ => m < 6) True n) (hn : n ≤ 6) (hfuel : 6 < n + fuel) :
    engineMoves fuel u = ((progOf i s).resume rs).run u := by
  induction fuel generalizing rs n u with
  | zero => omega
  | succ fuel ih =>
    have hmove := engineMove_of_busy hp hd
    rw [hH _ u hu hpar] at hmove
    rw [run_eq_runFrom_move]
    have hleaves := until_move (hs rs u.session (by simpa using hu))
    cases hm : ((progOf i s).resume rs).move u with
    | issued r t =>
      rw [hm] at hmove hleaves
      obtain ⟨m, hnm, hm6, hshape'⟩ := shape_resume_of_issued hshape hm
      rw [resume_append] at hshape'
      have ht := (onlyRun_move _ (.inl ⟨r, hm⟩)).par.trans hpar
      have hnext := ih (u := t.setPhase (.busy w (rs ++ [r]))) rfl ht (by simpa [Moved.Leaves] using hleaves) hshape'
        hm6 (by omega)
      rw [engineMoves_succ_of_next hp hmove, hnext, run_setPhase, Prog.runFrom, resume_append]
    | finished st data t =>
      rw [hm] at hmove
      rw [engineMoves_succ_of_next hp hmove, engineMoves_of_not_busy (.inl rfl), Prog.runFrom]
    | hung t =>
      rw [hm] at hmove
      rw [engineMoves_succ_of_next hp hmove, engineMoves_of_not_busy (.inr rfl), Prog.runFrom]
    | fault f =>
      rw [hm] at hmove
      rw [engineMoves_succ_of_fault hp hmove, Prog.runFrom]

/-- INIT's pseudocode depends on whether a session is initialised, and on nothing else of the state (R122). -/
theorem progInit_congr {s u : State} (sla flg bus : Byte) (h : u.session.init = s.session.init) :
    progInit sla flg bus u = progInit sla flg bus s := by
  simp only [progInit, h]

/-- CLEANUP's pseudocode depends on the session being initialised and having a handle (R131). -/
theorem progCleanup_congr {s u : State} (hi : u.session.init = s.session.init)
    (ho : u.session.handleOpen = s.session.handleOpen) : progCleanup u = progCleanup s := by
  simp only [progCleanup, hi, ho]

/-- A command's pseudocode reads the session and the parameters only. -/
theorem progOf_eq_of_session_par (i : Instr) (s : State) :
    progOf i s = progOf i { State.reset with session := s.session, par := s.par } := by
  cases i <;> rfl

theorem progOf_congr {s u : State} (i : Instr) (hs : u.session = s.session) (hp : u.par = s.par) :
    progOf i u = progOf i s := by
  rw [progOf_eq_of_session_par i u, progOf_eq_of_session_par i s, hs, hp]

/-- INIT of an initialised session does nothing (R122). -/
theorem progInit_of_init (sla flg bus : Byte) {s : State} (hi : s.session.init = true) :
    progInit sla flg bus s = .raise .alreadyInitialized := by
  simp only [progInit, hi, if_true]

/-- CLEANUP without a session does nothing (R131). -/
theorem progCleanup_of_not_init {s : State} (hi : s.session.init = false) : progCleanup s = .retOk := by
  simp [progCleanup, hi]

/-- The command's pseudocode, which every move of the Engine looks up again, stays the same while it runs: it rests on
session fields that its operations keep. -/
def PseudocodeStays (i : Instr) (s : State) : Prop :=
  ∃ (H : Nat → Session → Prop) (E : Session → Prop), H 0 s.session ∧
    (∀ n (u : State), H n u.session → u.par = s.par → progOf i u = progOf i s) ∧ (progOf i s).Steady H E 0

theorem pseudocodeStays_of_no_writes {A : Nat → BusOp → Prop} {i : Instr} {s : State}
    (h : (progOf i s).Shape A False 0) : PseudocodeStays i s :=
  ⟨_, _, rfl, fun _ _ hu hp => progOf_congr i hu hp, steady_of_no_writes s.session h⟩

theorem pseudocodeStays (i : Instr) (s : State) : PseudocodeStays i s := by
  rcases Instr.init_or_cleanup_or_data i with ⟨sla, flg, bus, rfl⟩ | rfl | ⟨hinit, hcleanup⟩
  · cases hi : s.session.init with
    | true =>
      refine pseudocodeStays_of_no_writes (A := DataOp s) ?_
      rw [progOf, progInit_of_init sla flg bus hi]
      exact shape_raise _
    | false =>
      exact ⟨_, _, ⟨hi, rfl, by omega⟩, fun n u hu _ => progInit_congr sla flg bus (hu.notInit.trans hi.symm),
        steady_progInit sla flg bus hi⟩
  · cases hi : s.session.init with
    | false =>
      refine pseudocodeStays_of_no_writes (A := DataOp s) ?_
      rw [progOf, progCleanup_of_not_init hi]
      exact shape_retOk
    | true =>
      cases ho : s.session.handleOpen with
      | true =>
        exact ⟨_, _, ⟨hi, ho, rfl⟩, fun n u hu _ =>
          progCleanup_congr (hu.isInit.trans hi.symm) (hu.handle.trans ho.symm),
          steady_progCleanup hi ho⟩
      | false =>
        refine ⟨fun _ S => S = s.session, fun _ => True, rfl, fun _ _ hu hp => progOf_congr _ hu hp, ?_⟩
        rw [progOf, progCleanup_of_no_handle hi ho]
        exact steady_of_ending (fun _ _ => ⟨.ok, 0, rfl⟩) (fun _ _ _ => trivial) fun _ _ => trivial
  · exact pseudocodeStays_of_no_writes (shape_progOf_data s hinit hcleanup)

/-- Settles O7: along the moves the pseudocode stays the same, and seven moves are enough for six operations. -/
theorem operationsOneByOneAgreeWithWholeCommand : Obligations.OperationsOneByOneAgreeWithWholeCommand := by
  intro s w hp
  cases hd : decode w with
  | error e =>
    rw [engineMoves_succ_of_next rfl (engineMove_of_busy_illegal rfl hd), engineMoves_of_not_busy (.inl rfl)]
    simp only [runWord, hd]
    rfl
  | ok i =>
    obtain ⟨H, E, h0, hH, hs⟩ := pseudocodeStays i s
    rw [runWord_of_decode hd, exec_eq_run,
      engineMoves_eq_run hd hH hs 7 (rs := []) (u := s.setPhase (.busy w [])) rfl rfl h0
        (by simpa using shape_progOf i s) (by omega) (by omega),
      resume_nil, run_setPhase]

end Sys2Proof.Machine
end

section
/-! The session invariant (spec/10_state.md R23, R24), kept move by move. -/

namespace Sys2Proof.Machine

open Sys2Proof

/-! ## The session invariant (R23, R24) -/

/-- The invariant's clauses about the session alone. -/
structure SessionOk (S : Session) : Prop where
  handle : S.init = true → S.handleOpen = true
  layout : S.init = true → S.layout ≠ .none
  noLayout : S.init = false → S.layout = .none

/-- The invariant's clause about a BUSY INIT, after n operations of the word w. -/
def InitHasHandle (w : CmdWord) (n : Nat) (S : Session) : Prop :=
  2 ≤ n → opcField w = 0x01 → S.init = true ∨ S.handleOpen = true

theorem sessionInv_of_not_busy {s : State} (hs : SessionOk s.session) (hp : s.phase = .idle ∨ s.phase = .hung) :
    SessionInv s :=
  ⟨hs.handle, hs.layout, hs.noLayout, by rcases hp with hp | hp <;> simp [busyInitHasHandle, hp]⟩

theorem SessionInv.sessionOk {s : State} (h : SessionInv s) : SessionOk s.session := by
  obtain ⟨hhandle, hlayout, hnone, -⟩ := h
  exact ⟨hhandle, hlayout, hnone⟩

theorem busyInitHasHandle_iff {s : State} {w : CmdWord} {rs : List TxResult} (hp : s.phase = .busy w rs) :
    busyInitHasHandle s = true ↔ InitHasHandle w rs.length s.session := by
  rcases rs with _ | ⟨r, _ | ⟨r', rs⟩⟩
  · simp [busyInitHasHandle, hp, InitHasHandle]
  · simp [busyInitHasHandle, hp, InitHasHandle]
  · simp [busyInitHasHandle, hp, InitHasHandle, Bool.or_assoc, imp_iff_not_or]

theorem sessionInv_busy_iff {s : State} {w : CmdWord} {rs : List TxResult} (hp : s.phase = .busy w rs) :
    SessionInv s ↔ SessionOk s.session ∧ InitHasHandle w rs.length s.session := by
  refine ⟨fun h => ⟨h.sessionOk, ?_⟩, fun ⟨hs, hh⟩ => ⟨hs.handle, hs.layout, hs.noLayout, ?_⟩⟩
  · obtain ⟨-, -, -, hb⟩ := h
    exact (busyInitHasHandle_iff hp).1 hb
  · exact (busyInitHasHandle_iff hp).2 hh

/-- The opcode of a decoded command is that of its word (R95). -/
theorem opcode_of_decode {w : CmdWord} {i : Instr} (h : decode w = .ok i) : i.opcode = opcField w := by
  have hmap (opc f1 f2 f3 : Byte) (fmt : Format) (j : Instr) (hj : opcodeMap opc f1 f2 f3 = some (fmt, j)) :
      j.opcode = opc := by
    unfold opcodeMap at hj
    split at hj <;> cases hj <;> rfl
  unfold decode at h
  split at h
  · cases h
  · split at h
    · cases h
      exact hmap _ _ _ _ _ _ ‹_›
    · cases h

theorem initHasHandle_of_opcode {w : CmdWord} {n : Nat} {S : Session} (h : opcField w ≠ 0x01) : InitHasHandle w n S :=
  fun _ ho => absurd ho h

theorem eq_init_of_opcode {i : Instr} (h : i.opcode = 0x01) : ∃ sla flg bus, i = .init sla flg bus := by
  cases i with
  | init sla flg bus => exact ⟨sla, flg, bus, rfl⟩
  | _ => simp [Instr.opcode] at h

theorem InitEnded.sessionOk {S : Session} (h : InitEnded .none S) : SessionOk S := by
  rcases h with ⟨hi, hl⟩ | ⟨hi, ho, hl⟩
  · exact ⟨by simp [hi], by simp [hi], fun _ => hl.elim id id⟩
  · exact ⟨fun _ => ho, fun _ => hl, by simp [hi]⟩

/-- The move of a BUSY Engine keeps the invariant's clauses, those of the last result included. -/
theorem busy_move_leaves {s : State} {w : CmdWord} {rs : List TxResult} {i : Instr} (hd : decode w = .ok i)
    (hs : SessionOk s.session) (hh : InitHasHandle w rs.length s.session) :
    (((progOf i s).resume rs).move s).Leaves
      (fun S => SessionOk S ∧ InitHasHandle w (rs.length + 1) S) SessionOk := by
  have hconst {A : Nat → BusOp → Prop} (h : (progOf i s).Shape A False 0)
      (hop : InitHasHandle w (rs.length + 1) s.session) :
      ((progOf i s).resume rs).Until (fun S => SessionOk S ∧ InitHasHandle w (rs.length + 1) S) SessionOk s.session :=
    (steady_of_no_writes s.session h (m := 0) rs s.session rfl).mono (fun S hS => by subst hS; exact ⟨hs, hop⟩)
      fun S hS => by subst hS; exact hs
  refine until_move ?_
  rcases Instr.init_or_cleanup_or_data i with ⟨sla, flg, bus, rfl⟩ | rfl | ⟨hinit, hcleanup⟩
  · cases hi : s.session.init with
    | true =>
      refine hconst (A := DataOp s) ?_ fun _ _ => .inl hi
      rw [progOf, progInit_of_init sla flg bus hi]
      exact shape_raise _
    | false =>
      have hH : InitUnderway .none (0 + rs.length) s.session :=
        ⟨hi, hs.noLayout hi, fun hn => (hh (by omega) (opcode_of_decode hd).symm).resolve_left (by simp [hi])⟩
      exact (steady_progInit sla flg bus hi rs s.session hH).mono
        (fun S hS => ⟨hS.ended.sessionOk, fun hn _ => .inr (hS.handle (by omega))⟩) fun S hS => hS.sessionOk
  · have hop (S : Session) : InitHasHandle w (rs.length + 1) S :=
      initHasHandle_of_opcode (by rw [← opcode_of_decode hd]; decide)
    cases hi : s.session.init with
    | false =>
      refine hconst (A := DataOp s) ?_ (hop _)
      rw [progOf, progCleanup_of_not_init hi]
      exact shape_retOk
    | true =>
      have ho := hs.handle hi
      have hopen (S : Session) (hS : CleanupUnderway s.session.layout S) : SessionOk S :=
        ⟨fun _ => hS.handle, fun _ => hS.layout ▸ hs.layout hi, by simp [hS.isInit]⟩
      exact (steady_progCleanup hi ho rs s.session ⟨hi, ho, rfl⟩).mono (fun S hS => ⟨hopen S hS, hop S⟩)
        fun S hS => hS.elim (hopen S) fun ⟨hi', hl'⟩ => ⟨by simp [hi'], by simp [hi'], fun _ => hl'⟩
  · refine hconst (shape_progOf_data s hinit hcleanup) (initHasHandle_of_opcode fun ho => ?_)
    obtain ⟨sla, flg, bus, he⟩ := eq_init_of_opcode ((opcode_of_decode hd).trans ho)
    exact hinit sla flg bus he

theorem engineMove_keeps_sessionInv {s t : State} (hs : SessionInv s) (h : engineMove s = .next t) : SessionInv t := by
  rcases engineMove_next h with ⟨-, rfl⟩ | ⟨w, rs, hp, ⟨e, -, rfl⟩ | ⟨i, hd, hm⟩⟩
  · exact hs
  · exact sessionInv_of_not_busy hs.sessionOk (.inl rfl)
  · have hleaves := busy_move_leaves hd hs.sessionOk ((sessionInv_busy_iff hp).1 hs).2
    rcases hm with ⟨r, u, hm, rfl⟩ | ⟨st, data, u, hm, rfl⟩ | ⟨u, hm, rfl⟩ <;> rw [hm] at hleaves
    · exact (sessionInv_busy_iff rfl).2 (by simpa [Moved.Leaves] using hleaves)
    · exact sessionInv_of_not_busy hleaves (.inl rfl)
    · exact sessionInv_of_not_busy hleaves.1 (.inr rfl)

theorem engineMoves_keep_sessionInv {n : Nat} {s t : State} (hs : SessionInv s) (h : engineMoves n s = .next t) :
    SessionInv t := by
  induction n generalizing s with
  | zero => cases h; exact hs
  | succ n ih =>
    simp only [engineMoves] at h
    split at h
    · cases h; exact hs
    · cases h; exact hs
    · split at h
      · exact ih (engineMove_keeps_sessionInv hs ‹_›) h
      · cases h
      · cases h

/-- A word begun from IDLE. -/
theorem sessionInv_start {s : State} (hs : SessionInv s) (w : CmdWord) : SessionInv (s.setPhase (.busy w [])) :=
  (sessionInv_busy_iff rfl).2 ⟨hs.sessionOk, fun hn => absurd hn (by simp)⟩

/-- A word run as a whole is its moves one by one, and each keeps the invariant. -/
theorem runWord_keeps_sessionInv {w : CmdWord} {s t : State} (hs : SessionInv s) (hp : s.phase = .idle)
    (h : runWord w s = .next t) : SessionInv t := by
  rw [← operationsOneByOneAgreeWithWholeCommand s w hp] at h
  exact engineMoves_keep_sessionInv (sessionInv_start hs w) h

theorem processExit_keeps_sessionInv {s t : State} (hs : SessionInv s) (h : processExit s = .next t) :
    SessionInv t := by
  obtain ⟨hp, hx, -⟩ := processExit_next h
  by_cases hno : s.session.hookRegistered = false ∨ s.session.init = false
  · rw [processExit_of_no_session hp hx hno] at h
    cases h
    exact sessionInv_of_not_busy hs.sessionOk (.inl hp)
  · obtain ⟨hk, hi⟩ : s.session.hookRegistered = true ∧ s.session.init = true := by simpa using hno
    rw [processExit_of_open hp hx hk hi (hs.sessionOk.handle hi)] at h
    cases h
    have hclosed : SessionOk s.afterCleanup.session :=
      ⟨by simp [State.afterCleanup], by simp [State.afterCleanup], fun _ => rfl⟩
    exact sessionInv_of_not_busy hclosed (.inl hp)

/-- The invariant speaks of the session and the phase only. -/
theorem SessionInv.congr {s t : State} (hs : SessionInv s) (h : t.session = s.session) (hp : t.phase = s.phase) :
    SessionInv t := by
  have hb : busyInitHasHandle t = busyInitHasHandle s := by simp only [busyInitHasHandle, h, hp]
  rw [SessionInv, h, hb]
  exact hs

theorem sessionInv_reset_session {s : State} (h : s.session = Session.reset) (hp : s.phase = .idle) : SessionInv s :=
  sessionInv_of_not_busy (by rw [h]; exact ⟨by decide, by decide, fun _ => rfl⟩) (.inl hp)

theorem acceptWord_next_idle {s t : State} {k : State → Host.Outcome State Fault Refusal}
    (h : acceptWord s k = .next t) : s.phase = .idle := by
  unfold acceptWord at h
  split at h
  · cases h
  · split at h
    · assumption
    · cases h

theorem handle_keeps_sessionInv {e : Event} {s t : State} (hs : SessionInv s) (h : handle e s = .next t) :
    SessionInv t := by
  cases e with
  | submit w => exact runWord_keeps_sessionInv hs (acceptWord_next_idle h) (acceptWord_next h)
  | start w =>
    cases acceptWord_next (k := fun s' => .next (s'.setPhase (.busy w []))) h
    exact sessionInv_start hs w
  | proceed => exact engineMove_keeps_sessionInv hs h
  | exit => exact processExit_keeps_sessionInv hs h
  | engineReset => cases h; exact sessionInv_reset_session rfl rfl
  | targetPowerOn | resetLineLow | resetLineHigh | targetAnswersAgain => cases h; exact hs.congr rfl rfl
  | accessor tx =>
    simp only [handle] at h
    split at h <;> cases h
    next htx => exact hs.congr (onlyBus_accessorTx htx).session (onlyBus_accessorTx htx).phase

/-- Settles O11: each move of a step keeps the invariant, a command run as a whole because each of its moves does. -/
theorem stepKeepsSessionInvariant : Obligations.StepKeepsSessionInvariant := by
  intro s t hs h
  cases ha : s.agenda with
  | nil => exact engineMove_keeps_sessionInv hs (step_of_agenda_nil ha ▸ h)
  | cons e rest =>
    rw [step_of_agenda_cons ha] at h
    have hs' : SessionInv { s with agenda := rest } := hs.congr rfl rfl
    exact handle_keeps_sessionInv hs' h

/-- Settles O12: at reset no session is initialised and the Engine is IDLE. -/
theorem sessionInvariantAtReset : Obligations.SessionInvariantAtReset := sessionInv_reset_session rfl rfl

end Sys2Proof.Machine
end

section
/-! What every command's run leaves (spec/10_state.md R22, R29, spec/30_encoding.md R91, spec/60_exceptions.md R210), a
HUNG Engine (R255), and when no command meets the model fault (spec/20_memory.md R62). -/

namespace Sys2Proof.Machine

open Sys2Proof

/-! ## What a command can leave (R22, R29, R91, R210) -/

theorem Prog.Shape.go_data {A : Nat → BusOp → Prop} {writes : Prop} {p : Prog} {n : Nat} {s t : State} {st : Status}
    {data : Byte} (h : p.Shape A writes n) (hg : p.go s = .finished st data t) (hst : st ≠ .ok) : data = 0 := by
  induction p generalizing n s with
  | done st' data' => cases hg; exact h hst
  | assign f k ih => exact ih h.2 hg
  | hook k ih => exact ih h.2 hg
  | issue op k ih =>
    simp only [Prog.go] at hg
    split at hg
    · exact ih _ (h.2 _) hg
    · cases hg
    · cases hg

/-- A program that writes no session field leaves the session. -/
theorem Prog.Shape.go_session {A : Nat → BusOp → Prop} {p : Prog} {n : Nat} {s t : State} (h : p.Shape A False n)
    (hg : (∃ st data, p.go s = .finished st data t) ∨ p.go s = .hung t) : t.session = s.session := by
  induction p generalizing n s with
  | done st data => rcases hg with ⟨_, _, hg⟩ | hg <;> cases hg; rfl
  | assign f k ih => exact h.1.elim
  | hook k ih => exact h.1.elim
  | issue op k ih =>
    simp only [Prog.go] at hg
    split at hg
    next r u ho => exact (ih r (h.2 r) hg).trans (onlyBus_perform (.inl ho)).session
    next u ho =>
      rcases hg with ⟨_, _, hg⟩ | hg <;> cases hg
      exact (onlyBus_perform (r := .ok) (.inr ho)).session
    next => rcases hg with ⟨_, _, hg⟩ | hg <;> cases hg

/-- Settles O14: the pseudocode of these commands writes no session field, and no operation does. -/
theorem onlySessionCommandsWriteSession : Obligations.OnlySessionCommandsWriteSession := by
  intro i s t hinit hcleanup h
  have hshape := shape_progOf_data s hinit hcleanup
  rw [exec_eq_run] at h
  rcases run_next h with ⟨st, data, u, hg, rfl⟩ | ⟨u, hg, rfl⟩
  · exact hshape.go_session (t := u) (.inl ⟨st, data, hg⟩)
  · exact hshape.go_session (t := u) (.inr hg)

/-- Settles O15: a command's run ends with one response or hung, and leaves all but the session, the Target, the draws
and the record. -/
theorem oneResponseOrHung : Obligations.OneResponseOrHung := by
  intro i s t h
  rw [exec_eq_run] at h
  rcases run_next h with ⟨st, data, u, hg, rfl⟩ | ⟨u, hg, rfl⟩
  · have hu := onlyRun_go _ (.inl ⟨st, data, hg⟩)
    refine ⟨.inl ⟨rfl, st, data, ?_, (shape_progOf i s).go_data hg⟩, hu.log, hu.par, hu.agenda, hu.exited⟩
    simp [hu.responses]
  · have hu := onlyRun_go _ (.inr hg)
    exact ⟨.inr ⟨rfl, hu.responses⟩, hu.log, hu.par, hu.agenda, hu.exited⟩

/-! ## A HUNG Engine (R29, R255) -/

theorem handle_of_hung {e : Event} {s t : State} (hp : s.phase = .hung) (he : e ≠ .engineReset)
    (h : handle e s = .next t) :
    t.phase = .hung ∧ t.responses = s.responses ∧ t.session = s.session ∧ t.exited = s.exited := by
  have hidle : s.phase ≠ .idle := by simp [hp]
  cases e with
  | submit w => exact absurd (acceptWord_next_idle h) hidle
  | start w => exact absurd (acceptWord_next_idle (k := fun s' => .next (s'.setPhase (.busy w []))) h) hidle
  | proceed =>
    simp only [handle, engineMove, hp] at h
    cases h
    exact ⟨hp, rfl, rfl, rfl⟩
  | exit => exact absurd (processExit_next h).1 hidle
  | engineReset => exact absurd rfl he
  | targetPowerOn | resetLineLow | resetLineHigh | targetAnswersAgain => cases h; exact ⟨hp, rfl, rfl, rfl⟩
  | accessor tx =>
    simp only [handle] at h
    split at h <;> cases h
    next htx =>
      have hb := onlyBus_accessorTx htx
      exact ⟨hb.phase.trans hp, hb.responses, hb.session, hb.exited⟩

/-- Settles O8: no other move reaches the phase, the responses or the session of a HUNG Engine. -/
theorem hungStaysHung : Obligations.HungStaysHung := by
  intro s t hp hreset h
  cases ha : s.agenda with
  | nil =>
    rw [step_of_agenda_nil ha] at h
    exact handle_of_hung (e := .proceed) hp (by decide) h
  | cons e rest =>
    rw [step_of_agenda_cons ha] at h
    have he : e ≠ .engineReset := fun he => hreset rest (by rw [ha, he])
    exact handle_of_hung (s := { s with agenda := rest }) hp he h

/-! ## No model fault (R62) -/

/-- A data transaction after n operations: fewer than N stand before it, and in every Target of `J` its address is
decoded and a write keeps `J`. -/
def DecodesIn (J : Target → Prop) (N n : Nat) (op : BusOp) : Prop :=
  match op with
  | .read a => n < N ∧ ∀ t, J t → ∃ reg, t.decode a = some reg
  | .write a v => n < N ∧ ∀ t, J t → ∃ reg, t.decode a = some reg ∧ J (t.write reg v)
  | .openBus _ => True
  | .funcs => True
  | .bind _ => True
  | .close => True

/-- The operation meets no fault, and `P` holds of the state where it completes. -/
def Perf.Safe (P : State → Prop) : Perf → Prop
  | .completed _ t => P t
  | .never _ => True
  | .fault _ => False

theorem safe_endRead {P : State → Prop} {s : State} (h : ∀ e, P (s.record e)) (a v : Byte) (o : TxOutcome) :
    (s.endRead a v o).Safe P := by
  cases o with
  | hang => trivial
  | ok | nack | fail => exact h _

theorem safe_endWrite {P : State → Prop} {s : State} (h : ∀ e, P (s.record e)) (a v : Byte) (o : TxOutcome) :
    (s.endWrite a v o).Safe P := by
  cases o with
  | hang => trivial
  | ok | nack | fail => exact h _

/-- With no other accessor, a data transaction's draw is used and the Target may come up. -/
theorem beforeTx_of_no_accessor {s : State} (hb : (s.drawAt 0).before = []) :
    ∃ b, s.beforeTx = .ok (s.advance.setTarget (s.target.comeUp b)) := by
  cases ha : s.addressesTarget with
  | true => exact ⟨s.draw.answers, by simp [State.beforeTx, ha, hb, State.accessorTxs]⟩
  | false => exact ⟨false, by simp [State.beforeTx, ha, hb, State.accessorTxs]; rfl⟩

section NoFault

variable {J : Target → Prop} {s : State} {N n : Nat}

/-- An operation whose address is decoded meets no fault, where no other accessor acts. -/
theorem safe_perform (hcome : ∀ t b, J t → J (t.comeUp b)) {op : BusOp} (hop : DecodesIn J N n op) (hJ : J s.target)
    (hb : NoAccessorWithin (N - n) s) :
    (perform op s).Safe fun t => J t.target ∧ NoAccessorWithin (N - (n + 1)) t := by
  have hadv : NoAccessorWithin (N - (n + 1)) s.advance := fun k hk => by
    rw [State.advance_drawAt]
    exact hb (k + 1) (by omega)
  have hJ' (b : Bool) : J (s.target.comeUp b) := hcome _ _ hJ
  cases op with
  | openBus bus => exact ⟨hJ, fun k hk => hb k (by omega)⟩
  | funcs | bind | close => exact ⟨hJ, hadv⟩
  | read a =>
    obtain ⟨hn, hdec⟩ := hop
    obtain ⟨b, hbefore⟩ := beforeTx_of_no_accessor (hb 0 (by omega))
    obtain ⟨reg, hd⟩ := hdec _ (hJ' b)
    simp only [perform, State.memRead, hbefore, State.setTarget_target, hd]
    split
    · exact safe_endRead (fun _ => ⟨hJ' b, hadv⟩) _ _ _
    · exact safe_endRead (fun _ => ⟨hJ' b, hadv⟩) _ _ _
  | write a v =>
    obtain ⟨hn, hdec⟩ := hop
    obtain ⟨b, hbefore⟩ := beforeTx_of_no_accessor (hb 0 (by omega))
    obtain ⟨reg, hd, hw⟩ := hdec _ (hJ' b)
    simp only [perform, State.memWrite, hbefore, State.setTarget_target, hd]
    split
    · split
      · exact safe_endWrite (fun _ => ⟨hw, hadv⟩) _ _ _
      · exact safe_endWrite (fun _ => ⟨hJ' b, hadv⟩) _ _ _
    · exact safe_endWrite (fun _ => ⟨hJ' b, hadv⟩) _ _ _

/-- A program whose data transactions' addresses are decoded meets no fault, where no other accessor acts before
them. -/
theorem go_ne_fault (hcome : ∀ t b, J t → J (t.comeUp b)) {p : Prog} {writes : Prop}
    (hp : p.Shape (DecodesIn J N) writes n) (hJ : J s.target) (hb : NoAccessorWithin (N - n) s) (f : Fault) :
    p.go s ≠ .fault f := by
  induction p generalizing n s with
  | done st data => simp [Prog.go]
  | assign g k ih => exact ih hp.2 hJ hb
  | hook k ih =>
    refine ih hp.2 hJ fun j hj => ?_
    simpa [State.tryHook] using hb (j + 1) (by omega)
  | issue op k ih =>
    have hsafe := safe_perform hcome hp.1 hJ hb
    simp only [Prog.go]
    cases ho : perform op s with
    | completed r t =>
      rw [ho] at hsafe
      exact ih r (hp.2 r) hsafe.1 hsafe.2
    | never t => simp
    | fault g =>
      rw [ho] at hsafe
      exact hsafe.elim

end NoFault

theorem run_ne_fault {p : Prog} {s : State} (h : ∀ f, p.go s ≠ .fault f) (f : Fault) : p.run s ≠ .fault f := by
  rcases run_cases p s with ⟨st, data, t, -, hr⟩ | ⟨t, -, hr⟩ | ⟨g, hg, -⟩
  · simp [hr]
  · simp [hr]
  · exact absurd hg (h g)

/-- While the layout agrees with the chip bank, the addresses of the logical registers are decoded, and a write leaves
the bank. -/
theorem DataOp.decodesIn {s : State} {n : Nat} {op : BusOp} (h : DataOp s n op)
    (hl : s.session.init = true → layoutAgrees s = true) :
    DecodesIn (fun t => t.bank = s.target.bank) 4 n op := by
  obtain ⟨hn, hi, r, a, ha, hop⟩ := h
  have hd (t : Target) (ht : t.bank = s.target.bank) : t.decode a = some (.data r) := by
    rw [Target.decode, ht]
    exact decode_of_addrOf (hl hi) ha
  rcases hop with rfl | ⟨v, rfl⟩
  · exact ⟨hn, fun t ht => ⟨_, hd t ht⟩⟩
  · exact ⟨hn, fun t ht => ⟨_, hd t ht, by simpa using ht⟩⟩

/-- INIT's configuration-register address is decoded in both chip banks (R61). -/
theorem InitOp.decodesIn {n : Nat} {op : BusOp} (h : InitOp n op) : DecodesIn (fun _ => True) 5 n op := by
  cases op with
  | openBus | funcs | bind | close => trivial
  | read a =>
    obtain ⟨-, hn, rfl⟩ := h
    exact ⟨hn, fun t _ => ⟨_, decode_ioconAddr t⟩⟩
  | write a v =>
    obtain ⟨-, hn, rfl⟩ := h
    exact ⟨hn, fun t _ => ⟨_, decode_ioconAddr t, trivial⟩⟩

/-- OPEN uses no draw, so that a program that begins with it has one operation more than draws. -/
theorem go_openBus_ne_fault {J : Target → Prop} (hcome : ∀ t b, J t → J (t.comeUp b)) {bus : Byte}
    {k : TxResult → Prog} {N : Nat} {writes : Prop} {s : State}
    (hk : ∀ r, (k r).Shape (DecodesIn J (N + 1)) writes 1)
    (hJ : J s.target) (hb : NoAccessorWithin N s) (f : Fault) : (Prog.issue (.openBus bus) k).go s ≠ .fault f :=
  go_ne_fault (s := s.record _) hcome (hk _) hJ hb f

/-- INIT meets no fault: its OPEN uses no draw, and four draws cover its data transactions. -/
theorem go_progInit_ne_fault (sla flg bus : Byte) {s : State} (hb : NoAccessorWithin 4 s) (f : Fault) :
    (progInit sla flg bus s).go s ≠ .fault f := by
  cases hi : s.session.init with
  | true => simp [progInit_of_init sla flg bus hi, Prog.raise, Prog.go]
  | false =>
    have hshape := (shape_progInit sla flg bus s).mono (fun n op h => h.decodesIn) id
    simp only [progInit, hi, Bool.false_eq_true, if_false] at hshape ⊢
    obtain ⟨-, -, hk⟩ := hshape
    exact go_openBus_ne_fault (s := s.mapSession _) (fun _ _ h => h) hk trivial hb f

/-- Settles O17: the data transactions of every command go to decoded addresses, before any of which nothing but the
command's own writes reaches the Target. -/
theorem noFaultWhileLayoutAgrees : Obligations.NoFaultWhileLayoutAgrees := by
  intro i s hl hb f
  rw [exec_eq_run]
  refine run_ne_fault (fun g => ?_) f
  rcases Instr.init_or_cleanup_or_data i with ⟨sla, flg, bus, rfl⟩ | rfl | ⟨hinit, hcleanup⟩
  · exact go_progInit_ne_fault sla flg bus hb g
  · have hshape := (shape_progCleanup s).mono (B := DecodesIn (fun _ => True) 4)
      (fun n op h => by rw [h.2]; trivial) id
    exact go_ne_fault (fun _ _ h => h) hshape trivial hb g
  · have hshape := (shape_progOf_data s hinit hcleanup).mono (fun n op h => h.decodesIn hl) id
    exact go_ne_fault (fun _ _ h => by simpa using h) hshape rfl hb g

end Sys2Proof.Machine
end

section
/-! Transactions that never complete (spec/10_state.md R29, spec/20_memory.md R69, spec/70_reset_and_hazards.md R255),
and another accessor's write inside a read-modify-write (R248). -/

namespace Sys2Proof.Machine

open Sys2Proof

/-! ## A command's checks where they pass -/

section Checks

variable {s : State}

theorem requireInit_of_init (hi : s.session.init = true) (k : Prog) : requireInit s k = k := by
  simp [requireInit, hi]

theorem requireValid_of_addrOf {r : LogReg} {a : Byte} (ha : addrOf s.session.layout r = some a) (k : Prog) :
    requireValid s a k = k := by
  simp [requireValid, validAddr_of_addrOf ha]

theorem withAddr_of_addrOf {r : LogReg} {a : Byte} (ha : addrOf s.session.layout r = some a) (k : Byte → Prog) :
    withAddr s r k = k a := by
  simp [withAddr, ha]

theorem zeroMask_of_ne_zero {m : Byte} (hm : m ≠ 0) (checks : Prog → Prog) (skip body : Prog) :
    zeroMask s m checks skip body = checks body := by
  simp only [zeroMask, if_neg hm, ite_self]

theorem rmw1_of_ne_zero {r : LogReg} {a m : Byte} (hi : s.session.init = true)
    (ha : addrOf s.session.layout r = some a) (hm : m ≠ 0) (op : RmwOp) (k : Status → Prog) :
    rmw1 s r op m k = rmwAt a op m k := by
  rw [rmw1, zeroMask_of_ne_zero hm, requireInit_of_init hi, withAddr_of_addrOf ha]

theorem rmw1_zero (hi : s.session.init = true) (r : LogReg) (op : RmwOp) (k : Status → Prog) :
    rmw1 s r op 0 k = k .ok := by
  simp [rmw1, zeroMask, requireInit_of_init hi]

end Checks

/-! ## A transaction that never completes (R29, R69, R255) -/

/-- What a run's end records: no hang if it finished, one as the last event if it hung. -/
def Ran.Recorded (s : State) (r : Ran) : Prop :=
  match r with
  | .finished _ _ t => GrewWithoutHang s t
  | .hung t => GrewToHang s t
  | .fault _ => True

theorem Ran.Recorded.of_grew {s t : State} {r : Ran} (h : GrewWithoutHang s t) (hr : r.Recorded t) : r.Recorded s := by
  cases r with
  | finished st data u => exact h.trans hr
  | hung u => exact h.toHang hr
  | fault f => trivial

theorem go_recorded (p : Prog) (s : State) : (p.go s).Recorded s := by
  induction p generalizing s with
  | done st data => exact .refl s
  | assign f k ih => exact .of_grew ⟨[], by simp, by simp⟩ (ih (s.mapSession f))
  | hook k ih => exact .of_grew ⟨[], by simp [State.tryHook], by simp⟩ (ih s.tryHook)
  | issue op k ih =>
    have hop := perform_recorded op s
    simp only [Prog.go]
    cases ho : perform op s with
    | completed r t =>
      rw [ho] at hop
      exact .of_grew hop (ih r t)
    | never t =>
      rw [ho] at hop
      exact hop
    | fault f => trivial

/-- A command's record shows a hang exactly when the command ends HUNG, and then as its last event. -/
theorem exec_recorded {i : Instr} {s t : State} (h : exec i s = .next t) :
    ∃ l, (∀ e ∈ l, isHang e = false) ∧
      ((t.phase = .idle ∧ t.log = s.log ++ l) ∨
        (t.phase = .hung ∧ t.responses = s.responses ∧
          ∃ slave op, t.log = s.log ++ l ++ [.transfer slave op .hang none])) := by
  rw [exec_eq_run] at h
  have hrec := go_recorded (progOf i s) s
  rcases run_next h with ⟨st, data, u, hg, rfl⟩ | ⟨u, hg, rfl⟩ <;> rw [hg] at hrec
  · obtain ⟨l, hl, hno⟩ := hrec
    exact ⟨l, hno, .inl ⟨rfl, hl⟩⟩
  · obtain ⟨l, slave, op, hl, hno⟩ := hrec
    exact ⟨l, hno, .inr ⟨rfl, (onlyRun_go _ (.inr hg)).responses, slave, op, hl⟩⟩

/-- The state of an Engine that hangs after n draws, `events` on the bus: every other part is as before. -/
def State.afterHang (s : State) (n : Nat) (events : List BusEvent) : State :=
  { s with phase := .hung, draws := s.draws.drop n, drawn := s.drawn + n, log := s.log ++ events }

theorem setPhase_hung_record (s : State) (e : BusEvent) :
    (s.advance.record e).setPhase .hung = s.afterHang 1 [e] := by
  simp [State.afterHang, State.setPhase, State.record, State.advance]

theorem afterHang_step (s : State) (e : BusEvent) (n : Nat) (l : List BusEvent) :
    (s.advance.record e).afterHang n l = s.afterHang (n + 1) (e :: l) := by
  simp [State.afterHang, State.record, State.advance, Nat.add_assoc, Nat.add_comm 1 n]

section Hang

variable {s : State} {r : LogReg} {a : Byte}

/-- The session's next transaction goes to the logical register's address, has no other accessor before it and never
completes. -/
structure NextHangs (s : State) (r : LogReg) (a : Byte) : Prop where
  up : SessionUp s
  addr : addrOf s.session.layout r = some a
  before : (s.drawAt 0).before = []
  outcome : (s.drawAt 0).outcome = .hang

theorem NextHangs.run_read (h : NextHangs s r a) (k : TxResult → Prog) :
    (Prog.issue (.read a) k).run s = .next (s.afterHang 1 [failedReadEvent s a .hang]) := by
  obtain ⟨-, hl, ht⟩ := h.up
  rw [run_read_hang h.before ht (decode_of_addrOf hl h.addr) h.outcome, setPhase_hung_record]

theorem NextHangs.run_write (h : NextHangs s r a) (v : Byte) (k : TxResult → Prog) :
    (Prog.issue (.write a v) k).run s = .next (s.afterHang 1 [failedWriteEvent s a v .hang]) := by
  obtain ⟨-, hl, ht⟩ := h.up
  rw [run_write_hang h.before ht (decode_of_addrOf hl h.addr) h.outcome, setPhase_hung_record]

theorem NextHangs.run_regRead (h : NextHangs s r a) (k : Byte → Prog) :
    (requireInit s (requireValid s a (readOr a k))).run s = .next (s.afterHang 1 [failedReadEvent s a .hang]) := by
  rw [requireInit_of_init h.up.1, requireValid_of_addrOf h.addr]
  exact h.run_read _

theorem NextHangs.run_regWrite (h : NextHangs s r a) (v : Byte) :
    (requireInit s (requireValid s a (writeAndReturn a v))).run s =
      .next (s.afterHang 1 [failedWriteEvent s a v .hang]) := by
  rw [requireInit_of_init h.up.1, requireValid_of_addrOf h.addr]
  exact h.run_write v _

theorem NextHangs.run_regRmw {m : Byte} (h : NextHangs s r a) (hm : m ≠ 0) (op : RmwOp) :
    (zeroMask s m (fun k => requireInit s (requireValid s a k)) .retOk (rmwAt a op m .endWith)).run s =
      .next (s.afterHang 1 [failedReadEvent s a .hang]) := by
  rw [zeroMask_of_ne_zero hm, requireInit_of_init h.up.1, requireValid_of_addrOf h.addr]
  exact h.run_read _

theorem NextHangs.run_portRead (h : NextHangs s r a) (k : Byte → Prog) :
    (requireInit s (withAddr s r fun a => readOr a k)).run s =
      .next (s.afterHang 1 [failedReadEvent s a .hang]) := by
  rw [requireInit_of_init h.up.1, withAddr_of_addrOf h.addr]
  exact h.run_read _

theorem NextHangs.run_portWrite (h : NextHangs s r a) (v : Byte) :
    (requireInit s (withAddr s r fun a => writeAndReturn a v)).run s =
      .next (s.afterHang 1 [failedWriteEvent s a v .hang]) := by
  rw [requireInit_of_init h.up.1, withAddr_of_addrOf h.addr]
  exact h.run_write v _

theorem NextHangs.run_rmw1 {m : Byte} (h : NextHangs s r a) (hm : m ≠ 0) (op : RmwOp) (k : Status → Prog) :
    (rmw1 s r op m k).run s = .next (s.afterHang 1 [failedReadEvent s a .hang]) := by
  rw [rmw1_of_ne_zero h.up.1 h.addr hm]
  exact h.run_read _

/-- With port A's mask zero, port B's transaction is the first (R169). -/
theorem NextHangs.run_rmwBothDirs_zero {m : Byte} (h : NextHangs s (.iodir .b) a) (hm : m ≠ 0) (op : RmwOp) :
    (rmwBothDirs s op 0 m).run s = .next (s.afterHang 1 [failedReadEvent s a .hang]) := by
  rw [rmwBothDirs, rmw1_zero h.up.1]
  exact h.run_rmw1 hm op _

theorem NextHangs.run_isoutBody {b : Byte} (h : NextHangs s (.iodir (bitPort b)) a) (hv : validBit b = true)
    (k : Bool → Prog) : (isoutBody b s k).run s = .next (s.afterHang 1 [failedReadEvent s a .hang]) := by
  simp only [isoutBody, h.up.1, hv, h.addr, Bool.and_self, if_true]
  exact h.run_read _

theorem NextHangs.run_bitRmw {b : Byte} (h : NextHangs s (.iodir (bitPort b)) a) (hv : validBit b = true)
    (op : RmwOp) : (bitRmw op b s).run s = .next (s.afterHang 1 [failedReadEvent s a .hang]) := by
  rw [bitRmw, requireInit_of_init h.up.1]
  exact h.run_isoutBody hv _

/-- The write of a read-modify-write never completes (R75). -/
theorem run_rmwAt_write_hang {m v : Byte} {op : RmwOp} {k : Status → Prog} (hu : SessionUp s)
    (ha : addrOf s.session.layout r = some a) (hn : NoAccessorWithin 2 s) (ho : (s.drawAt 0).outcome = .ok)
    (ho' : (s.drawAt 1).outcome = .hang)
    (hv : v = s.target.read (.data r) (s.drawAt 0).pins (s.drawAt 0).contention) :
    (rmwAt a op m k).run s =
      .next (s.afterHang 2 [readEvent s a v, failedWriteEvent s a (op.apply v m) .hang]) := by
  obtain ⟨-, hl, ht⟩ := hu
  have hd := decode_of_addrOf hl ha
  subst hv
  rw [rmwAt, run_read_ok (hn 0 (by omega)) ht hd ho]
  dsimp only
  rw [run_write_hang (reg := .data r) (by simp [hn 1 (by omega)]) (by simp [ht]) (by simpa using hd) (by simp [ho']),
    setPhase_hung_record, afterHang_step]
  simp [failedWriteEvent]

/-- The write of SETONES or SETZEROS never completes (R146, R147). -/
theorem run_regRmw_write_hang {m v : Byte} {op : RmwOp} (hu : SessionUp s)
    (ha : addrOf s.session.layout r = some a) (hn : NoAccessorWithin 2 s) (ho : (s.drawAt 0).outcome = .ok)
    (ho' : (s.drawAt 1).outcome = .hang) (hm : m ≠ 0)
    (hv : v = s.target.read (.data r) (s.drawAt 0).pins (s.drawAt 0).contention) :
    (zeroMask s m (fun k => requireInit s (requireValid s a k)) .retOk (rmwAt a op m .endWith)).run s =
      .next (s.afterHang 2 [readEvent s a v, failedWriteEvent s a (op.apply v m) .hang]) := by
  rw [zeroMask_of_ne_zero hm, requireInit_of_init hu.1, requireValid_of_addrOf ha]
  exact run_rmwAt_write_hang hu ha hn ho ho' hv

end Hang

/-- Settles O10: a run records a hang exactly where it ends HUNG, and each listed command begins with the transaction
that hangs. -/
theorem hangGivesNoResponse : Obligations.HangGivesNoResponse := by
  refine ⟨fun i s t h => exec_recorded h, fun reg val v r s hu ha => ⟨fun hn ho => ?_, fun hn hok ho hm hv => ?_⟩⟩
  · have h : NextHangs s r reg := ⟨hu, ha, hn 0 (by omega), ho⟩
    refine ⟨h.run_regRead _, h.run_regRead _, h.run_regWrite val,
      fun hm => ⟨h.run_regRmw hm .or, h.run_regRmw hm .andnot⟩, ?_, ?_, ?_, ?_, ?_⟩
    · rintro rfl
      exact ⟨h.run_portRead _, h.run_portWrite val⟩
    · rintro rfl
      exact ⟨h.run_portRead _, h.run_portWrite val⟩
    · rintro rfl hm mb
      exact ⟨h.run_rmw1 hm .andnot _, h.run_rmw1 hm .or _⟩
    · rintro rfl hm
      exact ⟨h.run_rmwBothDirs_zero hm .andnot, h.run_rmwBothDirs_zero hm .or⟩
    · rintro bit hbit rfl
      exact ⟨h.run_isoutBody hbit _, h.run_bitRmw hbit .or, h.run_bitRmw hbit .andnot⟩
  · exact ⟨run_regRmw_write_hang hu ha hn (hok 0 (by omega)) ho hm hv,
      run_regRmw_write_hang hu ha hn (hok 0 (by omega)) ho hm hv⟩

/-! ## Another accessor inside a read-modify-write (R42, R248) -/

/-- The later write to a register stands (R65). -/
@[simp] theorem Target.write_write (t : Target) (r : TargetReg) (x y : Byte) :
    (t.write r x).write r y = t.write r y := by
  rcases r with ((_ | _) | (_ | _) | (_ | _)) | _ <;> rfl

/-- A write of a data register leaves the decode. -/
@[simp] theorem Target.write_data_decode (t : Target) (r : LogReg) (v a : Byte) :
    (t.write (.data r) v).decode a = t.decode a := by
  simp [Target.decode]

/-- Another accessor's write to a decoded address of a Target that answers (R42, R65). -/
theorem accessorTx_write {s : State} {a x : Byte} {reg : TargetReg} (hv : s.target.availability = .answering)
    (hd : s.target.decode a = some reg) :
    s.accessorTx (.write a x) = .ok ((s.setTarget (s.target.write reg x)).record (.accessor (.write a x))) := by
  simp [State.accessorTx, hv, hd]

/-- Before a transaction the Target answers, another accessor writes a register. -/
theorem beforeTx_accessor_write {s : State} {a x : Byte} {reg : TargetReg}
    (hb : (s.drawAt 0).before = [.write a x]) (ht : s.targetAnswers = true) (hd : s.target.decode a = some reg) :
    s.beforeTx = .ok ((s.advance.setTarget (s.target.write reg x)).record (.accessor (.write a x))) := by
  obtain ⟨ha, hv⟩ := (targetAnswers_iff s).1 ht
  have same : s.advance.setTarget s.target = s.advance := rfl
  have htx : s.advance.accessorTx (.write a x) = _ := accessorTx_write (s := s.advance) hv hd
  simp [State.beforeTx, hb, State.accessorTxs, ha, hv, same, htx]

@[simp] theorem State.setTarget_record_setTarget (s : State) (t t' : Target) (e : BusEvent) :
    ((s.setTarget t).record e).setTarget t' = (s.record e).setTarget t' := rfl

/-- An `ok` write of a data register right after another accessor's write to it: the accessor's byte is lost (R248). -/
theorem run_write_after_accessor {s : State} {a v x : Byte} {r : LogReg} {k : TxResult → Prog}
    (hb : (s.drawAt 0).before = [.write a x]) (ht : s.targetAnswers = true) (hd : s.target.decode a = some (.data r))
    (ho : (s.drawAt 0).outcome = .ok) :
    (Prog.issue (.write a v) k).run s =
      (k .ok).run (((s.advance.record (.accessor (.write a x))).setTarget (s.target.write (.data r) v)).record
        (writeEvent s a v)) := by
  refine run_issue ?_
  have ht' : (s.advance.setTarget (s.target.write (.data r) x)).targetAnswers = true :=
    (targetAnswers_setTarget_write s.advance (.data r) x).trans ht
  simp [perform, State.memWrite, beforeTx_accessor_write hb ht hd, ht', hd, txOutcome_of_answers ht, ho, writeLands,
    State.endWrite, writeEvent]

/-- A write and an event, their draw already used, before the rest of a command. -/
theorem afterCommand_setTarget_record (s : State) (x : Target) (e : BusEvent) (n : Nat) (l : List BusEvent) (t : Target)
    (st : Status) (data : Byte) :
    ((s.setTarget x).record e).afterCommand n l t st data = s.afterCommand n (e :: l) t st data := by
  simp [State.afterCommand, State.record, State.setTarget]

/-- Settles O45: the write carries the byte read before the accessor's write, and lands on top of it. -/
theorem accessorUpdateIsLost : Obligations.AccessorUpdateIsLost := by
  intro reg mask x v r s hu hok hm ha hb0 hb1 hv
  obtain ⟨hi, hl, ht⟩ := hu
  have hd := decode_of_addrOf hl ha
  subst hv
  rw [exec_eq_run, progOf, progSetones, zeroMask_of_ne_zero hm, requireInit_of_init hi, requireValid_of_addrOf ha,
    rmwAt, run_read_ok hb0 ht hd (hok 0 (by omega))]
  dsimp only
  rw [run_write_after_accessor (x := x) (by simpa using hb1) (by simpa using ht) (by simpa using hd)
    (by simpa using hok 1 (by omega))]
  simp [Prog.endWith, respond_eq_afterCommand, afterCommand_setTarget_record, RmwOp.apply, writeEvent]

end Sys2Proof.Machine
end

section
/-! INIT up to its BIND, and INIT with ALT failing or hanging at the configuration register (spec/40_session.md R120,
R123, R127). -/

namespace Sys2Proof.Machine

open Sys2Proof

/-! ## INIT up to its BIND (R120) -/

/-- The state of INIT after OPEN of bus b, FUNCS and BIND of address a have completed `ok`. -/
def State.boundInit (s : State) (flg a b : Byte) : State :=
  { s.advance.advance with
    session := { s.session with bus := b, pathOwned := flg.getLsbD 2, slave := a.setWidth 7, handleOpen := true }
    log := s.log ++ [.control (.openBus b) .ok, .control .funcs (.caps ⟨true, true⟩), .control (.bind a) .ok] }

@[simp] theorem boundInit_drawAt (s : State) (flg a b : Byte) (k : Nat) :
    (s.boundInit flg a b).drawAt k = s.drawAt (k + 2) :=
  calc (s.boundInit flg a b).drawAt k = s.advance.advance.drawAt k := rfl
    _ = s.drawAt (k + 2) := by simp

@[simp] theorem boundInit_target (s : State) (flg a b : Byte) : (s.boundInit flg a b).target = s.target := rfl

@[simp] theorem boundInit_par (s : State) (flg a b : Byte) : (s.boundInit flg a b).par = s.par := rfl

@[simp] theorem boundInit_slave (s : State) (flg a b : Byte) :
    (s.boundInit flg a b).session.slave = a.setWidth 7 := rfl

/-- With OPEN, FUNCS, both capabilities and BIND good, INIT goes on to the configuration register under ALT, else to its
end (R120). -/
theorem run_progInit_bound {sla flg bus a b : Byte} {s : State} (ha : a = initSlave sla flg) (hb : b = initBus flg bus)
    (hi : s.session.init = false) (ho : openOK s.par b = true) (hf : (s.drawAt 0).ctrl = true)
    (hc : capsOf s.par b = ⟨true, true⟩) (ha7 : a.toNat ≤ 0x7F) (hbind : (s.drawAt 1).bind = true) :
    (progInit sla flg bus s).run s =
      (if flgAlt flg then initBank else finishInit .bank0).run (s.boundInit flg a b) := by
  subst ha hb
  simp only [progInit, hi, Bool.false_eq_true, if_false, run_assign]
  rw [run_openBus]
  simp only [State.mapSession_par, ho, if_true, run_assign]
  rw [run_funcs]
  simp only [State.mapSession_drawAt, State.record_drawAt, hf, State.mapSession_par, State.record_par,
    State.mapSession_session, State.record_session, hc, if_true, Bool.and_self]
  rw [run_bind]
  simp only [State.record_drawAt, State.advance_drawAt, State.mapSession_drawAt, ha7, hbind, decide_true, Bool.and_self,
    if_true, run_assign]
  congr 1
  simp [State.boundInit, State.mapSession, State.record, State.advance, flgBusGiven]

/-! ## INIT's bank update failing (R70, R120, R123, R127) -/

/-- ABORT: one CLOSE, and the session has no handle, no path and no layout (R120, R123). -/
theorem run_abortInit (st : Status) (s : State) :
    (abortInit st).run s = .next { s.afterCommand 1 [.control .close (if (s.drawAt 0).ctrl then .ok else .fail)]
        s.target st 0x00 with
      session := { s.session with handleOpen := false, pathOwned := false, layout := .none } } := by
  rw [abortInit, run_close]
  simp [State.respond, State.afterCommand, State.mapSession, State.record, State.advance]

/-- The register at the configuration register's address, as a value (R58, R61, R127). -/
theorem read_ioconAddr (t : Target) (pins contention : Byte) :
    t.read (if t.bank then .data (.olat .a) else .iocon) pins contention = if t.bank then t.olatA else t.iocon := by
  cases t.bank <;> rfl

/-- The register at the configuration register's address, written. -/
theorem write_ioconAddr (t : Target) (v : Byte) :
    t.write (if t.bank then .data (.olat .a) else .iocon) v =
      if t.bank then { t with olatA := v } else { t with iocon := v } := by
  cases t.bank <;> rfl

section InitBank

variable {s : State} {v : Byte}

theorem run_initBank_read_failed (ht : s.targetAnswers = true) (hb : (s.drawAt 0).before = [])
    (ho : outcomeFailed (s.drawAt 0).outcome = true) :
    initBank.run s =
      (abortInit .ioError).run (s.advance.record (failedReadEvent s ioconAddr (s.drawAt 0).outcome)) := by
  rw [initBank, run_read_failed hb ht (decode_ioconAddr _) ho]

theorem run_initBank_read_hang (ht : s.targetAnswers = true) (hb : (s.drawAt 0).before = [])
    (ho : (s.drawAt 0).outcome = .hang) :
    initBank.run s = .next (s.afterHang 1 [failedReadEvent s ioconAddr .hang]) := by
  rw [initBank, run_read_hang hb ht (decode_ioconAddr _) ho, setPhase_hung_record]

variable (hv : v = if s.target.bank then s.target.olatA else s.target.iocon)
include hv

/-- The read completes, and the write sets bit 7 of the byte read; where it fails, ABORT follows. -/
theorem run_initBank_read_ok (ht : s.targetAnswers = true) (hb : (s.drawAt 0).before = [])
    (ho : (s.drawAt 0).outcome = .ok) :
    ∃ k : TxResult → Prog, k .fail = abortInit .ioError ∧
      initBank.run s = (Prog.issue (.write ioconAddr (v ||| ioconBankBit)) k).run
        (s.advance.record (readEvent s ioconAddr v)) := by
  subst hv
  exact ⟨_, rfl, by rw [initBank, run_read_ok hb ht (decode_ioconAddr _) ho, read_ioconAddr]⟩

theorem run_initBank_write_failed (ht : s.targetAnswers = true) (hb : (s.drawAt 0).before = [])
    (ho : (s.drawAt 0).outcome = .ok) (hb' : (s.drawAt 1).before = [])
    (ho' : outcomeFailed (s.drawAt 1).outcome = true) :
    initBank.run s = (abortInit .ioError).run
      (((s.advance.record (readEvent s ioconAddr v)).advance.setTarget (if (s.drawAt 1).wrote then
          (if s.target.bank then { s.target with olatA := v ||| ioconBankBit }
            else { s.target with iocon := v ||| ioconBankBit })
        else s.target)).record (failedWriteEvent s ioconAddr (v ||| ioconBankBit) (s.drawAt 1).outcome)) := by
  obtain ⟨k, hk, hrun⟩ := run_initBank_read_ok hv ht hb ho
  rw [hrun, run_write_failed (by simpa using hb') (by simpa using ht) (decode_ioconAddr _) (by simpa using ho'), hk,
    write_ioconAddr, State.record_drawAt, State.advance_drawAt]
  rfl

theorem run_initBank_write_hang (ht : s.targetAnswers = true) (hb : (s.drawAt 0).before = [])
    (ho : (s.drawAt 0).outcome = .ok) (hb' : (s.drawAt 1).before = []) (ho' : (s.drawAt 1).outcome = .hang) :
    initBank.run s =
      .next (s.afterHang 2 [readEvent s ioconAddr v, failedWriteEvent s ioconAddr (v ||| ioconBankBit) .hang]) := by
  obtain ⟨k, -, hrun⟩ := run_initBank_read_ok hv ht hb ho
  rw [hrun, run_write_hang (by simpa using hb') (by simpa using ht) (decode_ioconAddr _) (by simpa using ho'),
    setPhase_hung_record, afterHang_step]
  simp [failedWriteEvent]

end InitBank

/-- Settles O60: INIT reaches the configuration register with its session bound, and each failure there ends it. -/
theorem initAltFailsAtBankUpdate : Obligations.InitAltFailsAtBankUpdate := by
  intro sla flg bus a b v s ha hb hi halt ho hf hc ha7 hbind haddr hav hb2 hb3 hv
  have hrun := run_progInit_bound (sla := sla) (flg := flg) (bus := bus) (a := a) (b := b) (s := s) ha hb hi ho hf hc
    ha7 hbind
  have halt' : flgAlt flg = true := halt
  rw [halt', if_pos rfl] at hrun
  have ht : (s.boundInit flg a b).targetAnswers = true :=
    (targetAnswers_iff _).2 ⟨by simpa [State.addressesTarget] using haddr, hav⟩
  refine ⟨fun ho2 => ?_, fun ho2 ho3 => ?_, fun ho2 => ?_, fun ho2 ho3 => ?_⟩
  · rw [exec_eq_run, progOf, hrun, run_initBank_read_failed ht (by simpa using hb2) (by simpa using ho2),
      run_abortInit]
    simp only [State.record_drawAt, State.advance_drawAt, boundInit_drawAt]
    simp [State.afterCommand, State.boundInit, failedReadEvent, State.advance, ioconAddr]
  · rw [exec_eq_run, progOf, hrun, run_initBank_write_failed (s := s.boundInit flg a b) hv ht (by simpa using hb2)
      (by simpa using ho2) (by simpa using hb3) (by simpa using ho3), run_abortInit]
    simp only [State.record_drawAt, State.advance_drawAt, State.setTarget_drawAt, boundInit_drawAt]
    simp [State.afterCommand, State.boundInit, failedWriteEvent, readEvent, State.advance, ioconAddr, ioconBankBit]
  · rw [exec_eq_run, progOf, hrun, run_initBank_read_hang ht (by simpa using hb2) (by simpa using ho2)]
    simp [State.afterHang, State.boundInit, failedReadEvent, State.advance, ioconAddr]
  · rw [exec_eq_run, progOf, hrun, run_initBank_write_hang (s := s.boundInit flg a b) hv ht (by simpa using hb2)
      (by simpa using ho2) (by simpa using hb3) (by simpa using ho3)]
    simp [State.afterHang, State.boundInit, failedWriteEvent, readEvent, State.advance, ioconAddr,
      ioconBankBit]

end Sys2Proof.Machine
end

section
/-! The moves of the Environment and the Host on the Target (spec/10_state.md R42, spec/70_reset_and_hazards.md R240 to
R243), process exit (spec/40_session.md R132), and the GPIO registers (R35, R37, R64, R65). -/

namespace Sys2Proof.Machine

open Sys2Proof

/-! ## The Target's resets (R240 to R243) -/

theorem Target.powerOn_eq (t : Target) :
    t.powerOn = ⟨0xFF, 0xFF, 0x00, 0x00, 0x00,
      if t.availability = .heldInReset then .heldInReset else .comingUp⟩ := rfl

theorem Target.holdInReset_eq (t : Target) : t.holdInReset = ⟨0xFF, 0xFF, 0x00, 0x00, 0x00, .heldInReset⟩ := rfl

/-- A pulse of the reset line: the registers at their reset values, the Target coming up. -/
theorem Target.release_holdInReset (t : Target) :
    t.holdInReset.release = ⟨0xFF, 0xFF, 0x00, 0x00, 0x00, .comingUp⟩ := rfl

theorem Target.comeUp_true_of_comingUp {t : Target} (h : t.availability = .comingUp) :
    t.comeUp true = { t with availability := .answering } := by
  simp [Target.comeUp, h]

theorem targetAnswers_of_not_answering {s : State} (h : s.target.availability ≠ .answering) :
    s.targetAnswers = false := by
  simp [State.targetAnswers, h]

/-- Settles O20: each move of the Host or the Environment on the Target is one `setTarget`. -/
theorem targetResetEvents : Obligations.TargetResetEvents := by
  intro s rest
  refine ⟨fun ha => ?_, fun ha => ?_, fun ha hv => ?_, fun hv => ?_⟩
  · rw [step_of_agenda_cons ha, handle, Target.powerOn_eq]
    rfl
  · refine ⟨_, step_of_agenda_cons ha, rfl, ?_⟩
    rw [step_of_agenda_cons rfl, handle]
    rfl
  · rw [step_of_agenda_cons ha, handle, Target.comeUp_true_of_comingUp hv]
    rfl
  · exact targetAnswers_of_not_answering (by rcases hv with hv | hv <;> simp [hv])

/-! ## Process exit and other accessors between commands -/

/-- Settles O21: the exit with the hook is CLEANUP's pseudocode, which has a session to end or nothing to do. -/
theorem processExitEndsSession : Obligations.ProcessExitEndsSession := by
  intro s rest ha hp hx
  refine ⟨fun hk hi ho => ?_, fun h => ?_⟩
  · rw [step_of_agenda_cons ha]
    exact processExit_of_open (s := { s with agenda := rest }) hp hx hk hi ho
  · rw [step_of_agenda_cons ha]
    exact processExit_of_no_session (s := { s with agenda := rest }) hp hx h

theorem accessorTx_write_undecoded {s : State} {a x : Byte} (hv : s.target.availability = .answering)
    (hd : s.target.decode a = none) : s.accessorTx (.write a x) = .error (.unmodelledTargetRegister a) := by
  simp [State.accessorTx, hv, hd]

theorem accessorTx_of_not_answering {s : State} {tx : OtherTx} (hv : s.target.availability ≠ .answering) :
    s.accessorTx tx = .ok (s.record (.accessor tx)) := by
  simp [State.accessorTx, hv]

theorem step_accessor_ok {s t : State} {tx : OtherTx} {rest : List Event} (ha : s.agenda = .accessor tx :: rest)
    (h : ({ s with agenda := rest } : State).accessorTx tx = .ok t) : step s = .next t := by
  simp only [step_of_agenda_cons ha, handle, h]

theorem step_accessor_error {s : State} {tx : OtherTx} {f : Fault} {rest : List Event}
    (ha : s.agenda = .accessor tx :: rest) (h : ({ s with agenda := rest } : State).accessorTx tx = .error f) :
    step s = .fault f := by
  simp only [step_of_agenda_cons ha, handle, h]

/-- Settles O22: the accessor's transaction is one register write, the model fault, or nothing to a silent Target. -/
theorem accessorWriteBetweenCommands : Obligations.AccessorWriteBetweenCommands := by
  intro s a v rest ha
  refine ⟨fun hv => ⟨fun r hd => ?_, fun hd => ?_⟩, fun hv => ?_⟩
  · exact step_accessor_ok ha (accessorTx_write (s := { s with agenda := rest }) hv hd)
  · exact step_accessor_error ha (accessorTx_write_undecoded (s := { s with agenda := rest }) hv hd)
  · exact step_accessor_ok ha (accessorTx_of_not_answering (s := { s with agenda := rest }) hv)

/-! ## GPIO (R35, R37, R64, R65) -/

/-- Settles O24: bit by bit as `gpio_getLsbD` has it; without contention the driven level is the latch. -/
theorem gpioReadMultiplexes : Obligations.GpioReadMultiplexes := by
  refine ⟨fun t p pins contention i hi => t.gpio_getLsbD p pins contention hi, fun t p pins => ?_⟩
  simp [Target.read, Target.gpio]

/-- Settles O25: a GPIO write is a write of the port's latch, and a pin's level is read off direction and latch. -/
theorem gpioWriteDrivesOutputsOnly : Obligations.GpioWriteDrivesOutputsOnly := by
  intro t p q v i
  have hwrite : t.write (.data (.gpio p)) v = t.setOlat p v := rfl
  rw [hwrite]
  exact ⟨t.setOlat_olat p v, t.setOlat_iodir p q v, by rw [Target.drive, t.setOlat_olat, t.setOlat_iodir]⟩

end Sys2Proof.Machine
end

section
/-! The Target's decode address by address (spec/20_memory.md R59, R60), the layouts' valid addresses (R54 to R56), and
the frames on the wire (R66 to R68). -/

namespace Sys2Proof.Machine

open Sys2Proof

/-! ## The decode of each chip bank (R59, R60) -/

theorem Target.decode_of_bank0 {t : Target} (h : t.bank = false) (a : Byte) : t.decode a = decodeBank0.lookup a := by
  simp [Target.decode, h]

theorem Target.decode_of_bank1 {t : Target} (h : t.bank = true) (a : Byte) : t.decode a = decodeBank1.lookup a := by
  simp [Target.decode, h]

/-- Looking an address up in a table is testing its entries in order. -/
theorem lookup_cons_eq_ite (a b : Byte) (r : TargetReg) (l : List (Byte × TargetReg)) :
    ((b, r) :: l).lookup a = if a = b then some r else l.lookup a := by
  rw [List.lookup_cons]
  by_cases h : a = b
  · simp [h]
  · rw [if_neg h, beq_eq_false_iff_ne.2 h]

/-- Settles O23: the decode is a lookup in the table of the chip bank. -/
theorem targetDecodesListedAddresses : Obligations.TargetDecodesListedAddresses := by
  refine fun t a => ⟨fun h => ?_, fun h => ?_⟩
  · rw [Target.decode_of_bank0 h]
    simp only [decodeBank0, lookup_cons_eq_ite, List.lookup_nil]
  · rw [Target.decode_of_bank1 h]
    simp only [decodeBank1, lookup_cons_eq_ite, List.lookup_nil]

/-! ## The wire (R66 to R68) -/

/-- The address byte as a number: the address shifted by one, and RW below it (R68). -/
theorem addrByte_toNat (slave : BusAddr) (rd : Bool) :
    (addrByte slave rd).toNat = 2 * slave.toNat + (if rd then 1 else 0) := by
  have hshift : (slave.setWidth 8 <<< 1).toNat = 2 * slave.toNat := by
    have := slave.isLt
    simp [Nat.shiftLeft_eq]
    omega
  cases rd with
  | false => simpa [addrByte] using hshift
  | true =>
    have hor : 2 ^ 1 * slave.toNat + 1 = 2 ^ 1 * slave.toNat ||| 1 := Nat.two_pow_add_eq_or_of_lt (by omega) _
    simpa [addrByte, hshift] using hor.symm

/-- Settles O27: the frames are the model's, with the addresses as `addrByte` has them. -/
theorem wireFrames : Obligations.WireFrames :=
  ⟨addrByte_toNat, fun _ _ _ => ⟨rfl, rfl⟩⟩

/-! ## VALREG (R56, R142) -/

/-- The valid addresses of each layout (R54 to R56). -/
theorem validAddr_iff (l : Layout) (a : Byte) : validAddr l a = true ↔
    (l = .bank0 ∧ a ∈ [0x00, 0x01, 0x12, 0x13, 0x14, 0x15]) ∨
      (l = .bank1 ∧ a ∈ [0x00, 0x10, 0x09, 0x19, 0x0a, 0x1a]) := by
  cases l <;> simp [validAddr, allLogRegs, addrOf, addrBank0, addrBank1, eq_comm (b := a)]

/-- Settles O37: VALREG answers the validity check, which is `validAddr_iff`. -/
theorem valregTestsActiveLayout : Obligations.ValregTestsActiveLayout := by
  intro reg s
  rw [exec_eq_run, progOf, progValreg, run_ret, respond_eq_afterCommand]
  simp only [boolData, validAddr_iff]

end Sys2Proof.Machine
end

section
/-! One data transaction as a rule about the state it leaves (spec/20_memory.md R63 to R71), the read-modify-write pair
built of two (R75), and each command's pseudocode where its checks pass (spec/41_register_access.md,
spec/42_direction_port.md). -/

namespace Sys2Proof.Machine

open Sys2Proof

/-! ## The next transaction reaches a register -/

/-- The session's next transaction to `a` reaches the register `reg` of a Target that answers, with no other accessor
before it. -/
structure Reaches (s : State) (a : Byte) (reg : TargetReg) : Prop where
  before : (s.drawAt 0).before = []
  answers : s.targetAnswers = true
  decodes : s.target.decode a = some reg

theorem SessionUp.reaches {s : State} {r : LogReg} {a : Byte} (hu : SessionUp s)
    (ha : addrOf s.session.layout r = some a) (hb : (s.drawAt 0).before = []) : Reaches s a (.data r) :=
  have ⟨_, hl, ht⟩ := hu
  ⟨hb, ht, decode_of_addrOf hl ha⟩

/-- A transaction that changes nothing of the Target leaves a session up. -/
theorem SessionUp.advance_record {s : State} (hu : SessionUp s) (e : BusEvent) : SessionUp (s.advance.record e) := hu

/-! ## A read or a write that raises IO_ERROR where it fails (R143, R145) -/

section Ends

variable {s : State} {a v : Byte} {reg : TargetReg}

/-- An `ok` read of a register, whose value goes on (R63, R143). -/
theorem Reaches.run_readOr_ok (h : Reaches s a reg) (ho : (s.drawAt 0).outcome = .ok)
    (hv : v = s.target.read reg (s.drawAt 0).pins (s.drawAt 0).contention) (k : Byte → Prog) :
    (readOr a k).run s = (k v).run (s.advance.record (readEvent s a v)) := by
  rw [readOr, run_read_ok h.before h.answers h.decodes ho, hv]

/-- A failed read ends the command (R71, R143, R211). -/
theorem Reaches.run_readOr_failed (h : Reaches s a reg) (ho : outcomeFailed (s.drawAt 0).outcome = true)
    (k : Byte → Prog) :
    (readOr a k).run s =
      .next (s.afterCommand 1 [failedReadEvent s a (s.drawAt 0).outcome] s.target .ioError 0) := by
  rw [readOr, run_read_failed h.before h.answers h.decodes ho]
  simp [respond_eq_afterCommand]

/-- An `ok` write of a register ends the command (R65, R145). -/
theorem Reaches.run_writeAndReturn_ok (h : Reaches s a reg) (ho : (s.drawAt 0).outcome = .ok) :
    (writeAndReturn a v).run s = .next (s.afterCommand 1 [writeEvent s a v] (s.target.write reg v) .ok 0) := by
  rw [writeAndReturn, run_write_ok h.before h.answers h.decodes ho]
  simp [respond_eq_afterCommand]

/-- A failed write ends the command, and it lands as drawn (R70, R145, R211). -/
theorem Reaches.run_writeAndReturn_failed (h : Reaches s a reg) (ho : outcomeFailed (s.drawAt 0).outcome = true) :
    (writeAndReturn a v).run s = .next (s.afterCommand 1 [failedWriteEvent s a v (s.drawAt 0).outcome]
      (if (s.drawAt 0).wrote then s.target.write reg v else s.target) .ioError 0) := by
  rw [writeAndReturn, run_write_failed h.before h.answers h.decodes ho]
  simp [respond_eq_afterCommand]

end Ends

/-- An answer after a command's last event. -/
theorem respond_record_eq_afterCommand (s : State) (e : BusEvent) (st : Status) (data : Byte) :
    (s.advance.record e).respond st data = s.afterCommand 1 [e] s.target st data := by
  simp [respond_eq_afterCommand]

/-- An `ok` read whose byte is the answer (R143, R144, R176). -/
theorem Reaches.run_readOr_ret {s : State} {a v : Byte} {reg : TargetReg} (h : Reaches s a reg)
    (ho : (s.drawAt 0).outcome = .ok)
    (hv : v = s.target.read reg (s.drawAt 0).pins (s.drawAt 0).contention) :
    (readOr a .ret).run s = .next (s.afterCommand 1 [readEvent s a v] s.target .ok v) := by
  rw [h.run_readOr_ok ho hv, run_ret, respond_record_eq_afterCommand]

/-! ## Where no Target answers (R69, R243) -/

section Unanswered

variable {s : State} {a v : Byte} (hb : (s.drawAt 0).before = []) (hu : s.unanswered = true)
include hb hu

theorem run_readOr_ret_unanswered (ho : s.txOutcome = .ok) (hv : v = (s.drawAt 0).byte) :
    (readOr a .ret).run s = .next (s.afterCommand 1 [readEvent s a v] s.target .ok v) := by
  have hp : perform (.read a) s = .completed (.byte v) (s.advance.record (readEvent s a v)) := by
    rw [perform, memRead_unanswered hb hu, ho, hv]
    rfl
  rw [readOr, run_issue hp, run_ret, respond_record_eq_afterCommand]

theorem run_writeAndReturn_unanswered_ok (ho : s.txOutcome = .ok) :
    (writeAndReturn a v).run s = .next (s.afterCommand 1 [writeEvent s a v] s.target .ok 0) := by
  have hp : perform (.write a v) s = .completed .ok (s.advance.record (writeEvent s a v)) := by
    rw [perform, memWrite_unanswered hb hu, ho]
    rfl
  rw [writeAndReturn, run_issue hp, run_retOk, respond_record_eq_afterCommand]

theorem run_writeAndReturn_unanswered_failed (ho : outcomeFailed s.txOutcome = true) :
    (writeAndReturn a v).run s =
      .next (s.afterCommand 1 [failedWriteEvent s a v s.txOutcome] s.target .ioError 0) := by
  have hp : perform (.write a v) s = .completed .fail (s.advance.record (failedWriteEvent s a v s.txOutcome)) := by
    rw [perform, memWrite_unanswered hb hu]
    cases h : s.txOutcome with
    | ok | hang => simp [h, outcomeFailed] at ho
    | nack | fail => rfl
  rw [writeAndReturn, run_issue hp, run_raise, respond_record_eq_afterCommand]

end Unanswered

/-! ## A command whose checks pass is the body of its pseudocode -/

section Bodies

variable {s : State} {a : Byte} (hi : s.session.init = true)
include hi

theorem exec_readreg (hv : validAddr s.session.layout a = true) : exec (.readreg a) s = (readOr a .ret).run s := by
  rw [exec_eq_run, progOf, progReadreg, requireInit_of_init hi, requireValid, if_pos hv]

theorem exec_getreg (hv : validAddr s.session.layout a = true) : exec (.getreg a) s = (readOr a .ret).run s :=
  exec_readreg hi hv

theorem exec_writereg (hv : validAddr s.session.layout a = true) (v : Byte) :
    exec (.writereg a v) s = (writeAndReturn a v).run s := by
  rw [exec_eq_run, progOf, progWritereg, requireInit_of_init hi, requireValid, if_pos hv]

theorem exec_setones (hv : validAddr s.session.layout a = true) {m : Byte} (hm : m ≠ 0) :
    exec (.setones a m) s = (rmwAt a .or m .endWith).run s := by
  rw [exec_eq_run, progOf, progSetones, zeroMask_of_ne_zero hm, requireInit_of_init hi, requireValid, if_pos hv]

theorem exec_setzeros (hv : validAddr s.session.layout a = true) {m : Byte} (hm : m ≠ 0) :
    exec (.setzeros a m) s = (rmwAt a .andnot m .endWith).run s := by
  rw [exec_eq_run, progOf, progSetzeros, zeroMask_of_ne_zero hm, requireInit_of_init hi, requireValid, if_pos hv]

theorem exec_wrporta (ha : addrOf s.session.layout (.gpio .a) = some a) (v : Byte) :
    exec (.wrporta v) s = (writeAndReturn a v).run s := by
  rw [exec_eq_run, progOf, progWrporta, requireInit_of_init hi, withAddr_of_addrOf ha]

theorem exec_wrportb (ha : addrOf s.session.layout (.gpio .b) = some a) (v : Byte) :
    exec (.wrportb v) s = (writeAndReturn a v).run s := by
  rw [exec_eq_run, progOf, progWrportb, requireInit_of_init hi, withAddr_of_addrOf ha]

theorem exec_rdporta (ha : addrOf s.session.layout (.gpio .a) = some a) :
    exec .rdporta s = (readOr a .ret).run s := by
  rw [exec_eq_run, progOf, progRdporta, requireInit_of_init hi, withAddr_of_addrOf ha]

theorem exec_rdportb (ha : addrOf s.session.layout (.gpio .b) = some a) :
    exec .rdportb s = (readOr a .ret).run s := by
  rw [exec_eq_run, progOf, progRdportb, requireInit_of_init hi, withAddr_of_addrOf ha]

end Bodies

end Sys2Proof.Machine
end

section
/-! Register access and port commands (spec/41_register_access.md, spec/42_direction_port.md R174 to R177): the check of
the register address, single reads and writes, read-modify-write, and their failures. -/

namespace Sys2Proof.Machine

open Sys2Proof

/-! ## The check of the register address (R57, R141) -/

theorem requireValid_of_not {s : State} {a : Byte} (h : ∀ r, addrOf s.session.layout r ≠ some a) (k : Prog) :
    requireValid s a k = .raise .invalidRegister := by
  have hv : ¬ validAddr s.session.layout a = true := fun hv =>
    have ⟨r, hr⟩ := exists_of_validAddr hv
    h r hr
  rw [requireValid, if_neg hv]

/-- Settles O35: each of the commands comes to `requireValid` before its first operation. -/
theorem invalidRegisterAnswers : Obligations.InvalidRegisterAnswers := by
  intro reg val s hi h
  dsimp only
  have hraise (k : Prog) : (requireInit s (requireValid s reg k)).run s =
      .next (s.afterCommand 0 [] s.target .invalidRegister 0) := by
    rw [requireInit_of_init hi, requireValid_of_not h, run_raise, respond_eq_afterCommand]
  refine ⟨hraise _, hraise _, hraise _, fun hm => ⟨?_, ?_⟩⟩
  · rw [exec_eq_run, progOf, progSetones, zeroMask_of_ne_zero hm, hraise]
  · rw [exec_eq_run, progOf, progSetzeros, zeroMask_of_ne_zero hm, hraise]

/-! ## A layout that disagrees with the chip bank (R250, R251) -/

theorem exec_readreg_unmodelled {s : State} {a : Byte} (hi : s.session.init = true)
    (hv : validAddr s.session.layout a = true) (hb : (s.drawAt 0).before = []) (ht : s.targetAnswers = true)
    (hd : s.target.decode a = none) : exec (.readreg a) s = .fault (.unmodelledTargetRegister a) := by
  rw [exec_readreg hi hv, readOr, run_read_unmodelled hb ht hd]

/-- IODIRA's address is the same in both chip banks. -/
theorem decode_zero (t : Target) : t.decode 0x00 = some (.data (.iodir .a)) := by
  cases h : t.bank
  · rw [Target.decode_of_bank0 h]; rfl
  · rw [Target.decode_of_bank1 h]; rfl

theorem validAddr_zero {l : Layout} (h : l ≠ .none) : validAddr l 0x00 = true := by
  cases l with
  | none => exact absurd rfl h
  | bank0 | bank1 => rfl

/-- Settles O26: the listed addresses of each layout are not in the other bank's decode; 0x0a and 0x00 are. -/
theorem bankMismatchFaults : Obligations.BankMismatchFaults := by
  intro reg s hi ht hn
  have hb := hn 0 (by omega)
  refine ⟨fun hl hk hreg => ?_, fun hl hk hreg => ?_, fun hl hk ho => ?_, fun hl ho => ?_⟩
  · refine exec_readreg_unmodelled hi ((validAddr_iff _ _).2 (.inl ⟨hl, List.mem_cons_of_mem _ hreg⟩)) hb ht ?_
    rw [Target.decode_of_bank1 hk]
    revert reg
    decide
  · have hv : reg ∈ [0x00, 0x10, 0x09, 0x19, 0x0a, 0x1a] := by
      revert reg
      decide
    refine exec_readreg_unmodelled hi ((validAddr_iff _ _).2 (.inr ⟨hl, hv⟩)) hb ht ?_
    rw [Target.decode_of_bank0 hk]
    revert reg
    decide
  · have hd : s.target.decode 0x0a = some .iocon := by
      rw [Target.decode_of_bank0 hk]
      rfl
    have hr : Reaches s 0x0a .iocon := ⟨hb, ht, hd⟩
    rw [exec_readreg hi ((validAddr_iff _ _).2 (.inr ⟨hl, by decide⟩)), hr.run_readOr_ret (ho 0 (by omega)) rfl]
    rfl
  · have hr : Reaches s 0x00 (.data (.iodir .a)) := ⟨hb, ht, decode_zero _⟩
    rw [exec_readreg hi (validAddr_zero hl), hr.run_readOr_ret (ho 0 (by omega)) rfl]
    rfl

/-! ## Single reads and writes -/

/-- Settles O38: one read, of the Target's register or of the drawn byte. -/
theorem readregReturnsRegister : Obligations.ReadregReturnsRegister := by
  intro reg v r s hi ha hn ho hv
  have hb := hn 0 (by omega)
  have hrun : (readOr reg .ret).run s = .next (s.afterCommand 1 [readEvent s reg v] s.target .ok v) := by
    rcases hv with ⟨hl, ht, hv⟩ | ⟨hu, hv⟩
    · have hr : Reaches s reg (.data r) := SessionUp.reaches ⟨hi, hl, ht⟩ ha hb
      exact hr.run_readOr_ret (txOutcome_of_answers ht ▸ ho) hv
    · exact run_readOr_ret_unanswered hb hu ho hv
  have hvalid := validAddr_of_addrOf ha
  exact ⟨(exec_readreg hi hvalid).trans hrun, (exec_getreg hi hvalid).trans hrun⟩

/-- An `ok` WRITEREG of a logical register (R65, R145). -/
theorem exec_writereg_ok {s : State} {r : LogReg} {a : Byte} (h : Ready 1 s) (ha : addrOf s.session.layout r = some a)
    (v : Byte) : exec (.writereg a v) s =
      .next (s.afterCommand 1 [writeEvent s a v] (s.target.write (.data r) v) .ok 0x00) := by
  obtain ⟨hu, ho, hn⟩ := h
  rw [exec_writereg hu.1 (validAddr_of_addrOf ha),
    (hu.reaches ha (hn 0 (by omega))).run_writeAndReturn_ok (ho 0 (by omega))]

/-- Settles O39: one write, of the register, of the latch behind a GPIO address, or of nothing where none answers. -/
theorem writeregWritesRegister : Obligations.WriteregWritesRegister := by
  refine fun reg val p s => ⟨fun h ha => exec_writereg_ok h ha val, fun h ha => ?_, fun r ha hi hu hn => ?_⟩
  · rcases ha with ha | ha
    · exact exec_writereg_ok h ha val
    · exact exec_writereg_ok h ha val
  · have hb := hn 0 (by omega)
    rw [exec_writereg hi (validAddr_of_addrOf ha)]
    exact ⟨run_writeAndReturn_unanswered_ok hb hu, run_writeAndReturn_unanswered_failed hb hu⟩

/-! ## Ports (R174 to R177) -/

/-- The GPIO addresses of a session that is up. -/
theorem addrOf_gpio {s : State} (hu : SessionUp s) :
    addrOf s.session.layout (.gpio .a) = some (if s.session.layout = .bank0 then 0x12 else 0x09) ∧
    addrOf s.session.layout (.gpio .b) = some (if s.session.layout = .bank0 then 0x13 else 0x19) := by
  rcases layout_cases hu.2.1 with ⟨hl, -⟩ | ⟨hl, -⟩ <;> rw [hl] <;> exact ⟨rfl, rfl⟩

/-- Settles O49: a port write is an `ok` write of the GPIO register, which stores in the latch. -/
theorem writeportStoresLatch : Obligations.WriteportStoresLatch := by
  rintro val s ⟨hu, ho, hn⟩
  obtain ⟨haa, hab⟩ := addrOf_gpio hu
  have hb := hn 0 (by omega)
  rw [exec_wrporta hu.1 haa, exec_wrportb hu.1 hab, (hu.reaches haa hb).run_writeAndReturn_ok (ho 0 (by omega)),
    (hu.reaches hab hb).run_writeAndReturn_ok (ho 0 (by omega))]
  exact ⟨rfl, rfl⟩

/-- Settles O50: a port read is an `ok` read of the GPIO register, multiplexed as `gpioReadMultiplexes` has it. -/
theorem readportReadsPinsAndLatch : Obligations.ReadportReadsPinsAndLatch := by
  rintro s va vb ⟨hu, ho, hn⟩ hc rfl rfl
  obtain ⟨haa, hab⟩ := addrOf_gpio hu
  have hb := hn 0 (by omega)
  have hmux (p : Port) : s.target.read (.data (.gpio p)) (s.drawAt 0).pins (s.drawAt 0).contention =
      (s.target.iodir p &&& (s.drawAt 0).pins) ||| (~~~ s.target.iodir p &&& s.target.olat p) := by
    rw [hc 0 (by omega), gpioReadMultiplexes.2]
  rw [exec_rdporta hu.1 haa, exec_rdportb hu.1 hab]
  exact ⟨(hu.reaches haa hb).run_readOr_ret (ho 0 (by omega)) (hmux .a).symm,
    (hu.reaches hab hb).run_readOr_ret (ho 0 (by omega)) (hmux .b).symm⟩

/-! ## Read-modify-write (R75, R146, R147) -/

section Rmw

variable {s : State} {a m v : Byte} {r : LogReg} {op : RmwOp} (hu : SessionUp s)
  (ha : addrOf s.session.layout r = some a)
include hu ha

/-- Both transactions complete, and the command ends. -/
theorem run_rmwAt_endWith_ok (ho : TransactionsOk 2 s) (hn : NoAccessorWithin 2 s)
    (hv : v = s.target.read (.data r) (s.drawAt 0).pins (s.drawAt 0).contention) :
    (rmwAt a op m .endWith).run s = .next (s.afterCommand 2 [readEvent s a v, writeEvent s a (op.apply v m)]
      (s.target.write (.data r) (op.apply v m)) .ok 0) := by
  rw [run_rmwAt_ok hu.2.1 hu.2.2 ho hn ha hv]
  simp [Prog.endWith, respond_eq_afterCommand]

/-- The read fails, and the command ends. -/
theorem run_rmwAt_endWith_read_failed (hb : (s.drawAt 0).before = [])
    (ho : outcomeFailed (s.drawAt 0).outcome = true) :
    (rmwAt a op m .endWith).run s =
      .next (s.afterCommand 1 [failedReadEvent s a (s.drawAt 0).outcome] s.target .ioError 0) := by
  rw [run_rmwAt_failed hu.2.1 hu.2.2 ho hb ha]
  simp [Prog.endWith, respond_eq_afterCommand]

/-- The write fails: the pair gives IO_ERROR, and the write lands as drawn (R70). -/
theorem run_rmwAt_write_failed {k : Status → Prog} (hn : NoAccessorWithin 2 s) (ho : TransactionsOk 1 s)
    (ho' : outcomeFailed (s.drawAt 1).outcome = true)
    (hv : v = s.target.read (.data r) (s.drawAt 0).pins (s.drawAt 0).contention) :
    (rmwAt a op m k).run s = (k .ioError).run (((s.advance.record (readEvent s a v)).advance.setTarget
        (if (s.drawAt 1).wrote then s.target.write (.data r) (op.apply v m) else s.target)).record
      (failedWriteEvent s a (op.apply v m) (s.drawAt 1).outcome)) := by
  subst hv
  obtain ⟨-, hl, ht⟩ := hu
  have hd := decode_of_addrOf hl ha
  rw [rmwAt, run_read_ok (hn 0 (by omega)) ht hd (ho 0 (by omega))]
  dsimp only
  rw [run_write_failed (reg := .data r) (by simpa using hn 1 (by omega)) (by simpa using ht) (by simpa using hd)
    (by simpa using ho'), State.record_drawAt, State.advance_drawAt]
  rfl

/-- The write fails, and the command ends. -/
theorem run_rmwAt_endWith_write_failed (hn : NoAccessorWithin 2 s) (ho : TransactionsOk 1 s)
    (ho' : outcomeFailed (s.drawAt 1).outcome = true)
    (hv : v = s.target.read (.data r) (s.drawAt 0).pins (s.drawAt 0).contention) :
    (rmwAt a op m .endWith).run s = .next (s.afterCommand 2
      [readEvent s a v, failedWriteEvent s a (op.apply v m) (s.drawAt 1).outcome]
      (if (s.drawAt 1).wrote then s.target.write (.data r) (op.apply v m) else s.target) .ioError 0) := by
  rw [run_rmwAt_write_failed hu ha hn ho ho' hv]
  simp [Prog.endWith, respond_eq_afterCommand]

end Rmw

/-- Settles O40: the read-modify-write with OR. -/
theorem setonesSetsBits : Obligations.SetonesSetsBits := by
  rintro reg mask v r s ⟨hu, ho, hn⟩ hm ha hv
  rw [exec_setones hu.1 (validAddr_of_addrOf ha) hm]
  exact run_rmwAt_endWith_ok hu ha ho hn hv

/-- Settles O41: the read-modify-write with AND NOT. -/
theorem setzerosClearsBits : Obligations.SetzerosClearsBits := by
  rintro reg mask v r s ⟨hu, ho, hn⟩ hm ha hv
  rw [exec_setzeros hu.1 (validAddr_of_addrOf ha) hm]
  exact run_rmwAt_endWith_ok hu ha ho hn hv

/-! ## Failures (R70, R71, R211) -/

/-- Settles O43: each command's first transaction is the read, and each ends where it fails. -/
theorem failedReadAnswersIoError : Obligations.FailedReadAnswersIoError := by
  intro reg mask r s hu hn ho ha hm
  dsimp only
  have hb := hn 0 (by omega)
  have hvalid := validAddr_of_addrOf ha
  have hread := (hu.reaches ha hb).run_readOr_failed ho .ret
  refine ⟨(exec_readreg hu.1 hvalid).trans hread, (exec_getreg hu.1 hvalid).trans hread, ?_, ?_, ?_, ?_⟩
  · exact (exec_setones hu.1 hvalid hm).trans (run_rmwAt_endWith_read_failed hu ha hb ho)
  · exact (exec_setzeros hu.1 hvalid hm).trans (run_rmwAt_endWith_read_failed hu ha hb ho)
  · rintro rfl
    exact (exec_rdporta hu.1 ha).trans hread
  · rintro rfl
    exact (exec_rdportb hu.1 ha).trans hread

/-- Settles O44: the write is each command's last transaction, and it lands as drawn. -/
theorem failedWriteMayLand : Obligations.FailedWriteMayLand := by
  intro reg val v r s hu ha
  dsimp only
  have hvalid := validAddr_of_addrOf ha
  refine ⟨fun hn ho => ?_, fun hn hok ho hm hv => ⟨?_, ?_⟩⟩
  · have hwrite := (hu.reaches ha (hn 0 (by omega))).run_writeAndReturn_failed (v := val) ho
    refine ⟨(exec_writereg hu.1 hvalid val).trans hwrite, ?_, ?_⟩
    · rintro rfl
      exact (exec_wrporta hu.1 ha val).trans hwrite
    · rintro rfl
      exact (exec_wrportb hu.1 ha val).trans hwrite
  · exact (exec_setones hu.1 hvalid hm).trans (run_rmwAt_endWith_write_failed hu ha hn hok ho hv)
  · exact (exec_setzeros hu.1 hvalid hm).trans (run_rmwAt_endWith_write_failed hu ha hn hok ho hv)

end Sys2Proof.Machine
end

section
/-! SETOUT and SETIN, complete and failing on the way (spec/42_direction_port.md R169 to R173); SETBIT and CLRBIT
after a direction check that passes (spec/43_bit_ops.md R194, R195); INIT with ALT where all completes
(spec/40_session.md R120). -/

namespace Sys2Proof.Machine

open Sys2Proof

/-! ## The read-modify-write of one direction register (R169) -/

/-- The read-modify-write of a port with mask m uses no draw where the mask is zero. -/
def dirDraws (m : Byte) : Nat := if m = 0 then 0 else 2

theorem dirDraws_le (m : Byte) : dirDraws m ≤ 2 := by
  unfold dirDraws
  split <;> omega

/-- The direction register's new value. -/
def Target.newDir (t : Target) (p : Port) (op : RmwOp) (m : Byte) : Byte := op.apply (t.iodir p) m

/-- A completed read-modify-write of port p's direction register at address a: no transaction where the mask is zero. -/
def State.dirEvents (s : State) (p : Port) (op : RmwOp) (a m : Byte) : List BusEvent :=
  if m = 0 then [] else [readEvent s a (s.target.iodir p), writeEvent s a (s.target.newDir p op m)]

/-- The state after it. -/
def State.afterDir (s : State) (p : Port) (op : RmwOp) (a m : Byte) : State :=
  { s with
    target := s.target.setIodir p (s.target.newDir p op m)
    draws := s.draws.drop (dirDraws m)
    drawn := s.drawn + dirDraws m
    log := s.log ++ s.dirEvents p op a m }

theorem RmwOp.apply_zero (op : RmwOp) (v : Byte) : op.apply v 0 = v := by
  cases op with
  | or => exact BitVec.or_zero
  | andnot => exact BitVec.and_allOnes

@[simp] theorem Target.setIodir_bank (t : Target) (p : Port) (v : Byte) : (t.setIodir p v).bank = t.bank := by
  cases p <;> rfl

@[simp] theorem Target.setIodir_availability (t : Target) (p : Port) (v : Byte) :
    (t.setIodir p v).availability = t.availability := by
  cases p <;> rfl

/-- A failed write of a direction register lands as drawn: in either case the register holds a value. -/
theorem Target.setIodir_ite (t : Target) (p : Port) (c : Bool) (v : Byte) :
    (if c then t.setIodir p v else t) = t.setIodir p (if c then v else t.iodir p) := by
  cases c
  · exact (t.setIodir_self p).symm
  · rfl

section AfterDir

variable (s : State) (p : Port) (op : RmwOp) (a m : Byte)

@[simp] theorem State.afterDir_session : (s.afterDir p op a m).session = s.session := rfl

@[simp] theorem State.afterDir_target :
    (s.afterDir p op a m).target = s.target.setIodir p (s.target.newDir p op m) := rfl

@[simp] theorem State.afterDir_drawAt (k : Nat) : (s.afterDir p op a m).drawAt k = s.drawAt (dirDraws m + k) := by
  simp [State.drawAt, State.afterDir, Nat.add_assoc]

@[simp] theorem sessionUp_afterDir : SessionUp (s.afterDir p op a m) ↔ SessionUp s := by
  simp [SessionUp, layoutAgrees, State.targetAnswers, State.addressesTarget, State.afterDir]

/-- The read-modify-write before the rest of a command. -/
theorem State.afterDir_afterCommand (n : Nat) (l : List BusEvent) (t : Target) (st : Status) (data : Byte) :
    (s.afterDir p op a m).afterCommand n l t st data =
      s.afterCommand (dirDraws m + n) (s.dirEvents p op a m ++ l) t st data := by
  simp [State.afterCommand, State.afterDir, Nat.add_assoc]

/-- A zero mask changes nothing. -/
theorem State.afterDir_zero : s.afterDir p op a 0 = s := by
  have hsame : s.target.newDir p op 0 = s.target.iodir p := op.apply_zero _
  simp only [State.afterDir, State.dirEvents, dirDraws, hsame, Target.setIodir_self, if_true, List.drop_zero,
    Nat.add_zero, List.append_nil]

theorem State.afterDir_of_ne_zero {m : Byte} (hm : m ≠ 0) : s.afterDir p op a m =
    ((s.advance.record (readEvent s a (s.target.iodir p))).advance.setTarget
      (s.target.setIodir p (s.target.newDir p op m))).record (writeEvent s a (s.target.newDir p op m)) := by
  have htwo : s.draws.drop 2 = s.draws.tail.tail := by
    rw [← List.drop_one, ← List.drop_one, List.drop_drop]
  simp only [State.afterDir, State.dirEvents, dirDraws, if_neg hm, htwo]
  simp [State.advance, State.record, State.setTarget]

end AfterDir

section Rmw1

variable {s u : State} {p : Port} {a m : Byte} {op : RmwOp} (hs : u.session = s.session) (hu : SessionUp u)
  (ha : addrOf s.session.layout (.iodir p) = some a)
include hs hu ha

/-- Where its transactions complete, `rmw1` of the command that began in `s` goes on after them. -/
theorem run_rmw1_ok (ho : TransactionsOk (dirDraws m) u) (hn : NoAccessorWithin (dirDraws m) u) (k : Status → Prog) :
    (rmw1 s (.iodir p) op m k).run u = (k .ok).run (u.afterDir p op a m) := by
  have hi : s.session.init = true := hs ▸ hu.1
  by_cases hm : m = 0
  · rw [hm, rmw1_zero hi, State.afterDir_zero]
  · have hd : dirDraws m = 2 := if_neg hm
    rw [hd] at ho hn
    rw [rmw1_of_ne_zero hi ha hm, State.afterDir_of_ne_zero _ _ _ _ hm]
    exact run_rmwAt_ok hu.2.1 hu.2.2 ho hn (hs ▸ ha) rfl

theorem run_rmw1_read_failed (hm : m ≠ 0) (hb : (u.drawAt 0).before = [])
    (ho : outcomeFailed (u.drawAt 0).outcome = true) (k : Status → Prog) :
    (rmw1 s (.iodir p) op m k).run u =
      (k .ioError).run (u.advance.record (failedReadEvent u a (u.drawAt 0).outcome)) := by
  rw [rmw1_of_ne_zero (hs ▸ hu.1) ha hm]
  exact run_rmwAt_failed hu.2.1 hu.2.2 ho hb (hs ▸ ha)

theorem run_rmw1_write_failed (hm : m ≠ 0) (hn : NoAccessorWithin 2 u) (ho : TransactionsOk 1 u)
    (ho' : outcomeFailed (u.drawAt 1).outcome = true) (k : Status → Prog) :
    (rmw1 s (.iodir p) op m k).run u =
      (k .ioError).run (((u.advance.record (readEvent u a (u.target.iodir p))).advance.setTarget
          (u.target.setIodir p (if (u.drawAt 1).wrote then u.target.newDir p op m else u.target.iodir p))).record
        (failedWriteEvent u a (u.target.newDir p op m) (u.drawAt 1).outcome)) := by
  rw [rmw1_of_ne_zero (hs ▸ hu.1) ha hm, ← Target.setIodir_ite]
  exact run_rmwAt_write_failed hu (hs ▸ ha) hn ho ho' rfl

end Rmw1

/-! ## SETOUT and SETIN (R170 to R173) -/

/-- Port B's draws after port A's part. -/
theorem noAccessorWithin_afterDir {s : State} {op : RmwOp} {ma : Byte} (hn : NoAccessorWithin 4 s) :
    NoAccessorWithin 2 (s.afterDir .a op 0x00 ma) := by
  intro k hk
  have hle := dirDraws_le ma
  rw [State.afterDir_drawAt]
  exact hn _ (by omega)

/-- IODIRA's address is 0x00 in a session that is up. -/
theorem addrOf_iodirA {s : State} (hu : SessionUp s) : addrOf s.session.layout (.iodir .a) = some 0x00 := by
  rcases layout_cases hu.2.1 with ⟨hl, -⟩ | ⟨hl, -⟩ <;> rw [hl] <;> rfl

section BothDirs

variable {s : State} {ma mb b : Byte} {op : RmwOp} (hu : SessionUp s)
include hu

/-- Port A's part completes: port B's is what is left (R170). -/
theorem run_rmwBothDirs_portA_ok (ho : TransactionsOk (dirDraws ma) s) (hn : NoAccessorWithin 4 s) :
    (rmwBothDirs s op ma mb).run s = (rmw1 s (.iodir .b) op mb .endWith).run (s.afterDir .a op 0x00 ma) := by
  have hle := dirDraws_le ma
  rw [rmwBothDirs, run_rmw1_ok rfl hu (addrOf_iodirA hu) ho fun k hk => hn k (by omega), if_pos rfl]

variable (hb : addrOf s.session.layout (.iodir .b) = some b)
include hb

theorem run_rmwBothDirs_ok (ho : TransactionsOk 4 s) (hn : NoAccessorWithin 4 s) :
    (rmwBothDirs s op ma mb).run s = .next (s.afterCommand (dirDraws ma + dirDraws mb)
      (s.dirEvents .a op 0x00 ma ++ s.dirEvents .b op b mb)
      { s.target with iodirA := s.target.newDir .a op ma, iodirB := s.target.newDir .b op mb } .ok 0) := by
  have ha := dirDraws_le ma
  have hb' := dirDraws_le mb
  have hn' := noAccessorWithin_afterDir (op := op) (ma := ma) hn
  have ho' : TransactionsOk (dirDraws mb) (s.afterDir .a op 0x00 ma) := fun k hk => by
    rw [State.afterDir_drawAt]
    exact ho _ (by omega)
  rw [run_rmwBothDirs_portA_ok hu (fun k hk => ho k (by omega)) hn,
    run_rmw1_ok (State.afterDir_session ..) ((sessionUp_afterDir ..).2 hu) hb ho' fun k hk => hn' k (by omega)]
  simp only [Prog.endWith, if_true, run_retOk, respond_eq_afterCommand, State.afterDir_afterCommand,
    List.append_nil]
  rfl

theorem run_rmwBothDirs_portB_read_failed (hm : mb ≠ 0) (ho : TransactionsOk (dirDraws ma) s)
    (hn : NoAccessorWithin 4 s) (ho' : outcomeFailed (s.drawAt (dirDraws ma)).outcome = true) :
    (rmwBothDirs s op ma mb).run s = .next (s.afterCommand (dirDraws ma + 1)
      (s.dirEvents .a op 0x00 ma ++ [failedReadEvent s b (s.drawAt (dirDraws ma)).outcome])
      { s.target with iodirA := s.target.newDir .a op ma } .ioError 0) := by
  have hn' := noAccessorWithin_afterDir (op := op) (ma := ma) hn
  rw [run_rmwBothDirs_portA_ok hu ho hn, run_rmw1_read_failed (State.afterDir_session ..)
    ((sessionUp_afterDir ..).2 hu) hb hm (hn' 0 (by omega)) (by simpa using ho')]
  simp only [Prog.endWith, reduceCtorEq, if_false, run_raise, respond_record_eq_afterCommand,
    State.afterDir_afterCommand, State.afterDir_drawAt]
  rfl

theorem run_rmwBothDirs_portB_write_failed (hm : mb ≠ 0) (ho : TransactionsOk (dirDraws ma + 1) s)
    (hn : NoAccessorWithin 4 s) (ho' : outcomeFailed (s.drawAt (dirDraws ma + 1)).outcome = true) :
    (rmwBothDirs s op ma mb).run s = .next (s.afterCommand (dirDraws ma + 2)
      (s.dirEvents .a op 0x00 ma ++ [readEvent s b s.target.iodirB,
        failedWriteEvent s b (s.target.newDir .b op mb) (s.drawAt (dirDraws ma + 1)).outcome])
      { s.target with
        iodirA := s.target.newDir .a op ma
        iodirB := if (s.drawAt (dirDraws ma + 1)).wrote then s.target.newDir .b op mb else s.target.iodirB }
      .ioError 0) := by
  have hn' := noAccessorWithin_afterDir (op := op) (ma := ma) hn
  have hok : TransactionsOk 1 (s.afterDir .a op 0x00 ma) := fun k hk => by
    rw [State.afterDir_drawAt]
    exact ho _ (by omega)
  rw [run_rmwBothDirs_portA_ok hu (fun k hk => ho k (by omega)) hn, run_rmw1_write_failed (State.afterDir_session ..)
    ((sessionUp_afterDir ..).2 hu) hb hm hn' hok (by simpa using ho')]
  simp only [Prog.endWith, reduceCtorEq, if_false, run_raise, respond_eq_afterCommand, afterCommand_write,
    afterCommand_step, State.afterDir_afterCommand, State.afterDir_drawAt]
  rfl

omit hb

theorem run_rmwBothDirs_portA_read_failed (hm : ma ≠ 0) (hn : NoAccessorWithin 4 s)
    (ho : outcomeFailed (s.drawAt 0).outcome = true) :
    (rmwBothDirs s op ma mb).run s =
      .next (s.afterCommand 1 [failedReadEvent s 0x00 (s.drawAt 0).outcome] s.target .ioError 0) := by
  rw [rmwBothDirs, run_rmw1_read_failed rfl hu (addrOf_iodirA hu) hm (hn 0 (by omega)) ho]
  simp only [reduceCtorEq, if_false, run_raise, respond_record_eq_afterCommand]

theorem run_rmwBothDirs_portA_write_failed (hm : ma ≠ 0) (hn : NoAccessorWithin 4 s) (ho : TransactionsOk 1 s)
    (ho' : outcomeFailed (s.drawAt 1).outcome = true) :
    (rmwBothDirs s op ma mb).run s = .next (s.afterCommand 2
      [readEvent s 0x00 s.target.iodirA, failedWriteEvent s 0x00 (s.target.newDir .a op ma) (s.drawAt 1).outcome]
      { s.target with iodirA := if (s.drawAt 1).wrote then s.target.newDir .a op ma else s.target.iodirA }
      .ioError 0) := by
  rw [rmwBothDirs, run_rmw1_write_failed rfl hu (addrOf_iodirA hu) hm (fun k hk => hn k (by omega)) ho ho']
  simp only [reduceCtorEq, if_false, run_raise, respond_eq_afterCommand, afterCommand_write, afterCommand_step]
  rfl

end BothDirs

/-- Settles O46: both ports' read-modify-writes with AND NOT complete. -/
theorem setoutClearsDirectionBits : Obligations.SetoutClearsDirectionBits := by
  rintro ma mb b newA newB s ⟨hu, ho, hn⟩ hb rfl rfl
  exact run_rmwBothDirs_ok (op := .andnot) hu hb ho hn

/-- Settles O47: both ports' read-modify-writes with OR complete. -/
theorem setinSetsDirectionBits : Obligations.SetinSetsDirectionBits := by
  rintro ma mb b newA newB s ⟨hu, ho, hn⟩ hb rfl rfl
  exact run_rmwBothDirs_ok (op := .or) hu hb ho hn

/-- Settles O48: the four places at which a transaction can fail. -/
theorem setoutPartialFailure : Obligations.SetoutPartialFailure := by
  intro ma mb b newA newB n i s hu hn hb hi hn'
  obtain ⟨op, hrun, rfl, rfl⟩ : ∃ op, exec i s = (rmwBothDirs s op ma mb).run s ∧
      newA = s.target.newDir .a op ma ∧ newB = s.target.newDir .b op mb := by
    rcases hi with ⟨rfl, hA, hB⟩ | ⟨rfl, hA, hB⟩
    · exact ⟨.andnot, rfl, hA, hB⟩
    · exact ⟨.or, rfl, hA, hB⟩
  obtain rfl : n = dirDraws ma := hn'
  rw [hrun]
  exact ⟨fun hm ho => run_rmwBothDirs_portB_read_failed hu hb hm ho hn,
    fun hm ho => run_rmwBothDirs_portB_write_failed hu hb hm ho hn,
    fun hm => run_rmwBothDirs_portA_read_failed hu hm hn,
    fun hm => run_rmwBothDirs_portA_write_failed hu hm hn⟩

/-! ## SETBIT and CLRBIT after the direction check (R194, R195) -/

/-- A pin that tests as an output: the latch is read and the port written. -/
theorem run_bitRmw_of_output {s : State} {bit aDir aLatch aPort : Byte} {op : RmwOp} (hu : SessionUp s)
    (hb : (s.drawAt 0).before = []) (ho : (s.drawAt 0).outcome = .ok)
    (hv : validBit bit = true) (hout : testsAsOutput s bit = true)
    (hDir : addrOf s.session.layout (.iodir (bitPort bit)) = some aDir)
    (hLatch : addrOf s.session.layout (.olat (bitPort bit)) = some aLatch)
    (hPort : addrOf s.session.layout (.gpio (bitPort bit)) = some aPort) :
    (bitRmw op bit s).run s =
      (readOr aLatch fun v => writeAndReturn aPort (op.apply v (bitMask (bitOff bit)))).run
        (s.advance.record (readEvent s aDir (s.target.iodir (bitPort bit)))) := by
  rw [bitRmw, requireInit_of_init hu.1, run_isoutBody_ok hu ho hb hv hDir, hout, if_pos rfl, withAddr_of_addrOf hLatch,
    withAddr_of_addrOf hPort]

/-- Settles O56: after the direction read, the latch read fails, or it completes and the port write fails. -/
theorem setbitIoErrors : Obligations.SetbitIoErrors := by
  intro bit aDir aLatch aPort v p i s hu hn hvalid hp hout hDir hLatch hPort hi
  subst hp
  obtain ⟨op, hexec, rfl⟩ : ∃ op, exec i s = (bitRmw op bit s).run s ∧
      v = op.apply (s.target.olat (bitPort bit)) (bitMask (bitOff bit)) := by
    rcases hi with ⟨rfl, hv⟩ | ⟨rfl, hv⟩
    · exact ⟨.or, rfl, hv⟩
    · exact ⟨.andnot, rfl, hv⟩
  have hrun (ho : (s.drawAt 0).outcome = .ok) := hexec.trans
    (run_bitRmw_of_output hu (hn 0 (by omega)) ho hvalid hout hDir hLatch hPort)
  have hlatch : Reaches (s.advance.record (readEvent s aDir (s.target.iodir (bitPort bit)))) aLatch
      (.data (.olat (bitPort bit))) :=
    (hu.advance_record _).reaches hLatch (by simpa using hn 1 (by omega))
  refine ⟨fun ho hf => ?_, fun ho hf => ?_⟩
  · rw [hrun (ho 0 (by omega)), hlatch.run_readOr_failed (by simpa using hf), afterCommand_step]
    simp [failedReadEvent]
  · rw [hrun (ho 0 (by omega)), hlatch.run_readOr_ok (by simpa using ho 1 (by omega)) rfl]
    have hport : Reaches ((s.advance.record (readEvent s aDir (s.target.iodir (bitPort bit)))).advance.record
        (readEvent s aLatch (s.target.olat (bitPort bit)))) aPort (.data (.gpio (bitPort bit))) :=
      ((hu.advance_record _).advance_record _).reaches hPort (by simpa using hn 2 (by omega))
    refine (hport.run_writeAndReturn_failed (by simpa using hf)).trans ?_
    simp [failedWriteEvent, Target.write, Target.read]

/-! ## INIT with ALT (R120, R127, R249) -/

/-- INIT's success path: the hook is tried, and the session is open in layout l (R120, R125, R126). -/
theorem run_finishInit (l : Layout) (s : State) :
    (finishInit l).run s = .next { s.afterCommand 1 [] s.target .ok 0 with
      session := { s.session with
        hookRegistered := s.session.hookRegistered || (s.drawAt 0).ctrl, layout := l, init := true } } := by
  simp [finishInit, State.tryHook, State.respond, State.afterCommand, State.mapSession, State.advance]

/-- Both transactions at the configuration register complete (R127). -/
theorem run_initBank_ok {s : State} {v : Byte} (ht : s.targetAnswers = true) (hn : NoAccessorWithin 2 s)
    (ho : TransactionsOk 2 s) (hv : v = if s.target.bank then s.target.olatA else s.target.iocon) :
    initBank.run s = (finishInit .bank1).run
      (((s.advance.record (readEvent s ioconAddr v)).advance.setTarget
        (if s.target.bank then { s.target with olatA := v ||| ioconBankBit }
          else { s.target with iocon := v ||| ioconBankBit })).record
        (writeEvent s ioconAddr (v ||| ioconBankBit))) := by
  rw [initBank, run_read_ok (hn 0 (by omega)) ht (decode_ioconAddr _) (ho 0 (by omega)), read_ioconAddr, ← hv]
  dsimp only
  rw [run_write_ok (by simpa using hn 1 (by omega)) (by simpa using ht) (decode_ioconAddr _)
    (by simpa using ho 1 (by omega)), write_ioconAddr]
  rfl

/-- Settles O29: INIT reaches the configuration register with its session bound, and both transactions there
complete. -/
theorem initAltSwitchesBank : Obligations.InitAltSwitchesBank := by
  intro sla flg bus a b v s ha hb hi halt ho hf hc ha7 hbind haddr hav hdraws hv
  have hbound := run_progInit_bound (sla := sla) (flg := flg) (bus := bus) (a := a) (b := b) (s := s) ha hb hi ho hf hc
    ha7 hbind
  have ht : (s.boundInit flg a b).targetAnswers = true :=
    (targetAnswers_iff _).2 ⟨by simpa [State.addressesTarget] using haddr, hav⟩
  have hbank := run_initBank_ok (s := s.boundInit flg a b) (v := v) ht
    (fun k hk => by simpa using (hdraws (k + 2) (by omega) (by omega)).2)
    (fun k hk => by simpa using (hdraws (k + 2) (by omega) (by omega)).1) hv
  rw [exec_eq_run, progOf, hbound, flgAlt, halt, if_pos rfl, hbank, run_finishInit]
  simp only [State.record_drawAt, State.advance_drawAt, State.setTarget_drawAt, boundInit_drawAt]
  cases hk : s.target.bank <;>
    simp [hv, hk, State.afterCommand, State.boundInit, readEvent, writeEvent, State.advance, ioconAddr, ioconBankBit]

end Sys2Proof.Machine
end

section
/-! The frame of every command on the Target (spec/20_memory.md R51, R58, R65, R70): a register that no store address
of the command reaches stays. The shape of the pseudocode says where it writes; a run keeps the frame operation by
operation. -/

namespace Sys2Proof.Machine

open Sys2Proof

/-! ## What a data transaction can leave, with no other accessor before it -/

theorem endRead_ends {a v : Byte} {o : TxOutcome} {s t : State} {r : TxResult}
    (h : s.endRead a v o = .completed r t ∨ s.endRead a v o = .never t) : ∃ e, t = s.record e := by
  rcases h with h | h <;> cases o <;> cases h <;> exact ⟨_, rfl⟩

theorem endWrite_ends {a v : Byte} {o : TxOutcome} {s t : State} {r : TxResult}
    (h : s.endWrite a v o = .completed r t ∨ s.endWrite a v o = .never t) : ∃ e, t = s.record e := by
  rcases h with h | h <;> cases o <;> cases h <;> exact ⟨_, rfl⟩

/-- A read uses its draw, and a Target that comes up may answer. -/
theorem memRead_ends {a : Byte} {s t : State} {r : TxResult} (hb : (s.drawAt 0).before = [])
    (h : s.memRead a = .completed r t ∨ s.memRead a = .never t) :
    ∃ b e, t = (s.advance.setTarget (s.target.comeUp b)).record e := by
  obtain ⟨b, hbefore⟩ := beforeTx_of_no_accessor hb
  simp only [State.memRead, hbefore] at h
  split at h
  · split at h
    · rcases h with h | h <;> cases h
    · exact ⟨b, endRead_ends h⟩
  · exact ⟨b, endRead_ends h⟩

/-- A write uses its draw, a Target that comes up may answer, and the register at the address may be written. -/
theorem memWrite_ends {a v : Byte} {s t : State} {r : TxResult} (hb : (s.drawAt 0).before = [])
    (h : s.memWrite a v = .completed r t ∨ s.memWrite a v = .never t) :
    ∃ b tgt e, t = (s.advance.setTarget tgt).record e ∧
      (tgt = s.target.comeUp b ∨
        ∃ reg, s.target.decode a = some reg ∧ tgt = (s.target.comeUp b).write reg v) := by
  obtain ⟨b, hbefore⟩ := beforeTx_of_no_accessor hb
  simp only [State.memWrite, hbefore] at h
  split at h
  · split at h
    · rcases h with h | h <;> cases h
    next reg hd =>
      rw [State.setTarget_target, Target.comeUp_decode] at hd
      split at h
      · obtain ⟨e, rfl⟩ := endWrite_ends h
        exact ⟨b, _, e, rfl, .inr ⟨reg, hd, rfl⟩⟩
      · obtain ⟨e, rfl⟩ := endWrite_ends h
        exact ⟨b, _, e, rfl, .inl rfl⟩
  · obtain ⟨e, rfl⟩ := endWrite_ends h
    exact ⟨b, _, e, rfl, .inl rfl⟩

/-! ## The frame -/

/-- From `t0` to `t` the Target may have come up, and every storage register that no address of `L` reaches, under the
chip bank of `t0`, reads as before. -/
structure LeavesOutside (L : List Byte) (t0 t : Target) : Prop where
  availability : t.availability = t0.availability ∨ (t0.availability = .comingUp ∧ t.availability = .answering)
  registers : ∀ q : TargetReg, storageOf q = q → (∀ a ∈ L, (t0.decode a).map storageOf ≠ some q) →
    t.read q 0 0 = t0.read q 0 0

section Frame

variable {L : List Byte} {t0 t : Target}

theorem LeavesOutside.refl (L : List Byte) (t : Target) : LeavesOutside L t t := ⟨.inl rfl, fun _ _ _ => rfl⟩

theorem LeavesOutside.comeUp (h : LeavesOutside L t0 t) (b : Bool) : LeavesOutside L t0 (t.comeUp b) := by
  refine ⟨?_, fun q hq hL => (t.comeUp_read b q 0 0).trans (h.registers q hq hL)⟩
  rcases t.comeUp_cases b with hc | ⟨-, hcoming, hc⟩
  · rw [hc]
    exact h.availability
  · rcases h.availability with hv | ⟨-, hv⟩
    · exact .inr ⟨hv ▸ hcoming, by rw [hc]⟩
    · rw [hv] at hcoming
      cases hcoming

/-- A write leaves the storage registers it does not go to (R65). -/
theorem Target.read_write_of_ne (t : Target) {q reg : TargetReg} (hq : storageOf q = q) (h : storageOf reg ≠ q)
    (v : Byte) : (t.write reg v).read q 0 0 = t.read q 0 0 := by
  rcases q with ((_ | _) | (_ | _) | (_ | _)) | _ <;> simp [storageOf] at hq <;>
    rcases reg with ((_ | _) | (_ | _) | (_ | _)) | _ <;> simp [storageOf] at h <;> rfl

theorem LeavesOutside.write (h : LeavesOutside L t0 t) {a : Byte} {reg : TargetReg} (ha : a ∈ L)
    (hd : t0.decode a = some reg) (v : Byte) : LeavesOutside L t0 (t.write reg v) := by
  refine ⟨by simpa using h.availability, fun q hq hL => ?_⟩
  have hne : storageOf reg ≠ q := by simpa [hd] using hL a ha
  rw [t.read_write_of_ne hq hne v, h.registers q hq hL]

end Frame

/-- Only the configuration register's address reaches it, and only in chip bank 0 (R59 to R61). -/
theorem eq_ioconAddr_of_decode {t : Target} {a : Byte} (h : t.decode a = some .iocon) : a = ioconAddr := by
  cases hk : t.bank
  · rw [Target.decode_of_bank0 hk] at h
    revert a
    decide
  · rw [Target.decode_of_bank1 hk] at h
    revert a
    decide

/-- A write at another address leaves the chip bank. -/
theorem bank_write_of_ne_ioconAddr {t : Target} {a : Byte} {reg : TargetReg} (hd : t.decode a = some reg)
    (ha : a ≠ ioconAddr) (u : Target) (v : Byte) : (u.write reg v).bank = u.bank := by
  cases reg with
  | data r => exact u.write_data_bank r v
  | iocon => exact absurd (eq_ioconAddr_of_decode hd) ha

/-! ## Where a program writes -/

/-- Among the first N operations, the data transactions; a write goes to an address of `L`, and one to the configuration
register's address, which can switch the chip bank, is the last of them. -/
def StoresIn (L : List Byte) (N n : Nat) (op : BusOp) : Prop :=
  match op with
  | .read _ => n < N
  | .write a _ => n < N ∧ a ∈ L ∧ (a = ioconAddr → n + 1 = N)
  | .openBus _ => True
  | .funcs => True
  | .bind _ => True
  | .close => True

/-- Before operation n the frame holds, and until the last of the N the chip bank is the one of `t0`. -/
structure StoringIn (L : List Byte) (t0 : Target) (N n : Nat) (t : Target) : Prop where
  leaves : LeavesOutside L t0 t
  bank : n < N → t.bank = t0.bank

section Keep

variable {L : List Byte} {t0 : Target} {N n : Nat} {s t : State}

theorem StoringIn.comeUp {u : Target} (h : StoringIn L t0 N n u) (b : Bool) : StoringIn L t0 N (n + 1) (u.comeUp b) :=
  ⟨h.leaves.comeUp b, fun hn => (u.comeUp_bank b).trans (h.bank (by omega))⟩

theorem StoringIn.write {u : Target} (h : StoringIn L t0 N n u) {a v : Byte} (hop : StoresIn L N n (.write a v))
    (b : Bool) {reg : TargetReg} (hd : u.decode a = some reg) :
    StoringIn L t0 N (n + 1) ((u.comeUp b).write reg v) := by
  obtain ⟨hn, ha, hlast⟩ := hop
  have hd0 : t0.decode a = some reg := by rwa [Target.decode, ← h.bank hn]
  refine ⟨(h.leaves.comeUp b).write ha hd0 v, fun hn' => ?_⟩
  have hne : a ≠ ioconAddr := fun hi => by
    have := hlast hi
    omega
  rw [bank_write_of_ne_ioconAddr hd hne, Target.comeUp_bank, h.bank hn]

/-- An operation that `StoresIn` allows keeps the frame. -/
theorem storingIn_perform {op : BusOp} {r : TxResult} (hop : StoresIn L N n op) (h : StoringIn L t0 N n s.target)
    (hb : NoAccessorWithin (N - n) s) (hp : perform op s = .completed r t ∨ perform op s = .never t) :
    StoringIn L t0 N (n + 1) t.target ∧ NoAccessorWithin (N - (n + 1)) t := by
  have hadv : NoAccessorWithin (N - (n + 1)) s.advance := fun k hk => by
    rw [State.advance_drawAt]
    exact hb (k + 1) (by omega)
  have hsame : StoringIn L t0 N (n + 1) s.target := ⟨h.leaves, fun hn => h.bank (by omega)⟩
  cases op with
  | openBus bus =>
    rcases hp with hp | hp <;> cases hp
    exact ⟨hsame, fun k hk => hb k (by omega)⟩
  | funcs | bind | close =>
    rcases hp with hp | hp <;> cases hp
    exact ⟨hsame, hadv⟩
  | read a =>
    have hn : n < N := hop
    obtain ⟨b, e, rfl⟩ := memRead_ends (hb 0 (by omega)) hp
    exact ⟨h.comeUp b, hadv⟩
  | write a v =>
    have hn : n < N := hop.1
    obtain ⟨b, tgt, e, rfl, rfl | ⟨reg, hd, rfl⟩⟩ := memWrite_ends (hb 0 (by omega)) hp
    · exact ⟨h.comeUp b, hadv⟩
    · exact ⟨h.write hop b hd, hadv⟩

/-- A program whose writes go to addresses of `L` keeps the frame to its end. -/
theorem leavesOutside_go {p : Prog} {writes : Prop} (hp : p.Shape (StoresIn L N) writes n)
    (h : StoringIn L t0 N n s.target) (hb : NoAccessorWithin (N - n) s)
    (hg : (∃ st data, p.go s = .finished st data t) ∨ p.go s = .hung t) : LeavesOutside L t0 t.target := by
  induction p generalizing n s with
  | done st data =>
    rcases hg with ⟨_, _, hg⟩ | hg <;> cases hg
    exact h.leaves
  | assign f k ih => exact ih (s := s.mapSession f) hp.2 h hb hg
  | hook k ih =>
    refine ih (s := s.tryHook) hp.2 ⟨h.leaves, fun hn => h.bank (by omega)⟩ (fun k hk => ?_) hg
    simpa [State.tryHook] using hb (k + 1) (by omega)
  | issue op k ih =>
    simp only [Prog.go] at hg
    split at hg
    next r u ho =>
      obtain ⟨hu, hb'⟩ := storingIn_perform hp.1 h hb (.inl ho)
      exact ih r (hp.2 r) hu hb' hg
    next u ho =>
      rcases hg with ⟨_, _, hg⟩ | hg <;> cases hg
      exact (storingIn_perform (r := .ok) hp.1 h hb (.inr ho)).1.leaves
    next => rcases hg with ⟨_, _, hg⟩ | hg <;> cases hg

theorem StoringIn.start (L : List Byte) (u : Target) (N : Nat) : StoringIn L u N n u := ⟨.refl L u, fun _ => rfl⟩

end Keep

/-! ## The store addresses of each command's pseudocode -/

section Stores

variable {s : State} {L : List Byte} {N n : Nat}

theorem storesIn_write {a : Byte} (hn : n < N) (ha : a ∈ L) (hlast : a = ioconAddr → n + 1 = N) (v : Byte) :
    StoresIn L N n (.write a v) := ⟨hn, ha, hlast⟩

/-- With a zero mask the body of a read-modify-write does not run (R148). -/
theorem shape_zeroMask_cases {A : Nat → BusOp → Prop} {writes : Prop} {m : Byte} {checks : Prog → Prog}
    {skip body : Prog} (hskip : skip.Shape A writes n) (hchecked : (checks skip).Shape A writes n)
    (hbody : m ≠ 0 → (checks body).Shape A writes n) : (zeroMask s m checks skip body).Shape A writes n := by
  by_cases hm : m = 0
  · simp only [zeroMask, hm, if_true]
    split
    · exact hskip
    · exact hchecked
  · rw [zeroMask_of_ne_zero hm]
    exact hbody hm

theorem stores_regRead (reg : Byte) :
    (requireInit s (requireValid s reg (readOr reg .ret))).Shape (StoresIn L 1) False 0 :=
  shape_requireInit fun _ => shape_requireValid fun _ => shape_readOr Nat.one_pos fun v => shape_ret v

theorem stores_portRead (r : LogReg) :
    (requireInit s (withAddr s r fun a => readOr a .ret)).Shape (StoresIn L 1) False 0 :=
  shape_requireInit fun _ => shape_withAddr fun _ _ => shape_readOr Nat.one_pos fun v => shape_ret v

theorem stores_writereg (reg val : Byte) : (progWritereg reg val s).Shape (StoresIn [reg] 1) False 0 :=
  shape_requireInit fun _ => shape_requireValid fun _ =>
    shape_writeAndReturn (storesIn_write Nat.one_pos (List.mem_singleton_self _) (fun _ => rfl) val)

theorem stores_regRmw (reg mask : Byte) (op : RmwOp) :
    (zeroMask s mask (fun k => requireInit s (requireValid s reg k)) .retOk (rmwAt reg op mask .endWith)).Shape
      (StoresIn (if mask = 0 then [] else [reg]) 2) False 0 := by
  refine shape_zeroMask_cases shape_retOk (shape_requireInit fun _ => shape_requireValid fun _ => shape_retOk)
    fun hm => shape_requireInit fun _ => shape_requireValid fun _ => ?_
  rw [if_neg hm]
  exact shape_rmwAt Nat.two_pos (storesIn_write Nat.one_lt_two (List.mem_singleton_self _) fun _ => rfl)
    fun st _ _ _ => shape_endWith st

/-- No layout has a direction register at the configuration register's address (R54, R55). -/
theorem addrOf_iodir_ne_ioconAddr {l : Layout} {p : Port} {a : Byte} (h : addrOf l (.iodir p) = some a) :
    a ≠ ioconAddr := by
  cases l <;> cases p <;> cases h <;> decide

theorem stores_rmw1 {p : Port} {op : RmwOp} {m : Byte} {k : Status → Prog} (hn : n ≤ 2)
    (hL : m ≠ 0 → ∀ a, addrOf s.session.layout (.iodir p) = some a → a ∈ L)
    (h : ∀ st j, n ≤ j → j ≤ n + 2 → (k st).Shape (StoresIn L 4) False j) :
    (rmw1 s (.iodir p) op m k).Shape (StoresIn L 4) False n := by
  have hk := h .ok n (by omega) (by omega)
  refine shape_zeroMask_cases hk (shape_requireInit fun _ => hk)
    fun hm => shape_requireInit fun _ => shape_withAddr fun a ha => ?_
  have hlast (hi : a = ioconAddr) : n + 1 + 1 = 4 := absurd hi (addrOf_iodir_ne_ioconAddr ha)
  exact shape_rmwAt (show n < 4 by omega) (storesIn_write (by omega) (hL hm a ha) hlast) h

theorem mem_toList_of_ne_zero {m a : Byte} {o : Option Byte} (hm : m ≠ 0) (ho : o = some a) :
    a ∈ if m = 0 then [] else o.toList := by
  rw [if_neg hm, ho]
  exact List.mem_singleton_self a

theorem stores_rmwBothDirs (op : RmwOp) (ma mb : Byte) :
    (rmwBothDirs s op ma mb).Shape (StoresIn
      ((if ma = 0 then [] else (addrOf s.session.layout (.iodir .a)).toList) ++
        (if mb = 0 then [] else (addrOf s.session.layout (.iodir .b)).toList)) 4) False 0 := by
  refine stores_rmw1 (by omega) (fun hm _ ha => List.mem_append_left _ (mem_toList_of_ne_zero hm ha))
    fun st j _ hj => ?_
  by_cases hst : st = .ok
  · rw [if_pos hst]
    exact stores_rmw1 hj (fun hm _ ha => List.mem_append_right _ (mem_toList_of_ne_zero hm ha))
      fun st' _ _ _ => shape_endWith st'
  · rw [if_neg hst]
    exact shape_raise st

theorem stores_portWrite (r : LogReg) (val : Byte) :
    (requireInit s (withAddr s r fun a => writeAndReturn a val)).Shape
      (StoresIn (addrOf s.session.layout r).toList 1) False 0 :=
  shape_requireInit fun _ => shape_withAddr fun a ha =>
    shape_writeAndReturn (storesIn_write Nat.one_pos (by simp [ha]) (fun _ => rfl) val)

theorem stores_isout (bit : Byte) : (progIsout bit s).Shape (StoresIn L 1) False 0 :=
  shape_isoutBody (fun _ _ _ => Nat.one_pos) fun _ _ _ _ => shape_ret _

/-- No layout has a GPIO register at the configuration register's address (R54, R55). -/
theorem addrOf_gpio_ne_ioconAddr {l : Layout} {p : Port} {a : Byte} (h : addrOf l (.gpio p) = some a) :
    a ≠ ioconAddr := by
  cases l <;> cases p <;> cases h <;> decide

/-- SETBIT and CLRBIT: an invalid code has no transaction, and a valid one writes its port (R194 to R196). -/
theorem stores_bitRmw (op : RmwOp) (bit : Byte) :
    (bitRmw op bit s).Shape (StoresIn
      (if validBit bit then (addrOf s.session.layout (.gpio (bitPort bit))).toList else []) 3) False 0 := by
  refine shape_requireInit fun _ => ?_
  cases hv : validBit bit with
  | false =>
    simp only [isoutBody, hv, Bool.and_false, Bool.false_eq_true, if_false]
    exact shape_raise _
  | true =>
    rw [if_pos rfl]
    refine shape_isoutBody (fun _ _ _ => show 0 < 3 by omega) fun isOut j _ hj => ?_
    split
    · refine shape_withAddr fun aLatch _ => shape_withAddr fun aPort hPort => ?_
      have hlast (hi : aPort = ioconAddr) : j + 1 + 1 = 3 := absurd hi (addrOf_gpio_ne_ioconAddr hPort)
      exact shape_readOr (show j < 3 by omega) fun v =>
        shape_writeAndReturn (storesIn_write (by omega) (by simp [hPort]) hlast _)
    · exact shape_raise _

/-- Every command but INIT and CLEANUP writes at its store addresses. -/
theorem stores_progOf_data {i : Instr} (s : State) (hinit : ∀ sla flg bus, i ≠ .init sla flg bus)
    (hcleanup : i ≠ .cleanup) : ∃ N, N ≤ 4 ∧ (progOf i s).Shape (StoresIn (storeAddrs i s) N) False 0 := by
  cases i with
  | init sla flg bus => exact absurd rfl (hinit sla flg bus)
  | cleanup => exact absurd rfl hcleanup
  | valreg reg => exact ⟨0, by omega, shape_ret _⟩
  | readreg reg => exact ⟨1, by omega, stores_regRead reg⟩
  | getreg reg => exact ⟨1, by omega, stores_regRead reg⟩
  | writereg reg val => exact ⟨1, by omega, stores_writereg reg val⟩
  | setones reg mask => exact ⟨2, by omega, stores_regRmw reg mask .or⟩
  | setzeros reg mask => exact ⟨2, by omega, stores_regRmw reg mask .andnot⟩
  | setout maskA maskB => exact ⟨4, by omega, stores_rmwBothDirs .andnot maskA maskB⟩
  | setin maskA maskB => exact ⟨4, by omega, stores_rmwBothDirs .or maskA maskB⟩
  | wrporta val => exact ⟨1, by omega, stores_portWrite (.gpio .a) val⟩
  | wrportb val => exact ⟨1, by omega, stores_portWrite (.gpio .b) val⟩
  | rdporta => exact ⟨1, by omega, stores_portRead (.gpio .a)⟩
  | rdportb => exact ⟨1, by omega, stores_portRead (.gpio .b)⟩
  | isout bit => exact ⟨1, by omega, stores_isout bit⟩
  | setbit bit => exact ⟨3, by omega, stores_bitRmw .or bit⟩
  | clrbit bit => exact ⟨3, by omega, stores_bitRmw .andnot bit⟩

theorem stores_abortInit (st : Status) : (abortInit st).Shape (StoresIn L N) True n :=
  ⟨trivial, fun _ => ⟨trivial, shape_raise st⟩⟩

theorem stores_finishInit (l : Layout) : (finishInit l).Shape (StoresIn L N) True n :=
  ⟨trivial, trivial, shape_retOk⟩

/-- INIT's bank update writes the configuration register's address as its fifth operation (R120). -/
theorem stores_initBank : initBank.Shape (StoresIn [ioconAddr] 5) True 3 := by
  refine ⟨show 3 < 5 by omega, fun r => ?_⟩
  cases r with
  | byte v =>
    refine ⟨storesIn_write (by omega) (List.mem_singleton_self _) (fun _ => rfl) _, fun r' => ?_⟩
    cases r' with
    | ok => exact stores_finishInit .bank1
    | byte | caps | fail => exact stores_abortInit .ioError
  | ok | caps | fail => exact stores_abortInit .ioError

/-- INIT writes at the configuration register's address under ALT, and nowhere without it (R58, R120). -/
theorem stores_progInit (sla flg bus : Byte) :
    (progInit sla flg bus s).Shape (StoresIn (storeAddrs (.init sla flg bus) s) 5) True 0 := by
  unfold progInit
  split
  · exact shape_raise _
  · refine ⟨trivial, trivial, fun opened => ?_⟩
    cases opened with
    | ok =>
      refine ⟨trivial, trivial, fun funcs => ?_⟩
      cases funcs with
      | caps c =>
        dsimp only
        split
        · refine ⟨trivial, fun bound => ?_⟩
          cases bound with
          | ok =>
            refine ⟨trivial, ?_⟩
            cases halt : flgAlt flg with
            | true =>
              simp only [storeAddrs, halt, if_true]
              exact stores_initBank
            | false => exact stores_finishInit .bank0
          | byte | caps | fail => exact stores_abortInit .ioError
        · exact stores_abortInit .capabilityError
      | ok | byte | fail => exact stores_abortInit .ioError
    | byte | caps | fail => exact ⟨trivial, shape_raise _⟩

end Stores

/-- INIT keeps the frame: its OPEN uses no draw, and the draws of its data transactions are among the next four. -/
theorem leavesOutside_go_progInit (sla flg bus : Byte) {s t : State} (hb : NoAccessorWithin 4 s)
    (hg : (∃ st data, (progInit sla flg bus s).go s = .finished st data t) ∨
      (progInit sla flg bus s).go s = .hung t) :
    LeavesOutside (storeAddrs (.init sla flg bus) s) s.target t.target := by
  have hshape := stores_progInit (s := s) sla flg bus
  cases hi : s.session.init with
  | true =>
    rw [progInit_of_init sla flg bus hi] at hg
    rcases hg with ⟨_, _, hg⟩ | hg <;> cases hg
    exact .refl _ _
  | false =>
    simp only [progInit, hi, Bool.false_eq_true, if_false] at hshape hg
    obtain ⟨-, -, hk⟩ := hshape
    exact leavesOutside_go (s := (s.mapSession _).record _) (hk _) (.start _ _ 5) hb hg

/-- The Target a command leaves is the one its run ended with: the response and the phase do not touch it. -/
theorem target_of_run_next {p : Prog} {s t : State} (h : p.run s = .next t) :
    ∃ u, ((∃ st data, p.go s = .finished st data u) ∨ p.go s = .hung u) ∧ t.target = u.target := by
  rcases run_next h with ⟨st, data, u, hg, rfl⟩ | ⟨u, hg, rfl⟩
  · exact ⟨u, .inl ⟨st, data, hg⟩, rfl⟩
  · exact ⟨u, .inr hg, rfl⟩

/-- Settles O18: every command's run keeps the frame of its store addresses. -/
theorem commandsStoreOnlyAtTheirAddresses : Obligations.CommandsStoreOnlyAtTheirAddresses := by
  intro i s t hb h
  rw [exec_eq_run] at h
  obtain ⟨u, hg, htarget⟩ := target_of_run_next h
  have hframe : LeavesOutside (storeAddrs i s) s.target u.target := by
    rcases Instr.init_or_cleanup_or_data i with ⟨sla, flg, bus, rfl⟩ | rfl | ⟨hinit, hcleanup⟩
    · exact leavesOutside_go_progInit sla flg bus hb hg
    · have hshape := (shape_progCleanup s).mono (B := StoresIn [] 0) (fun n op h => by rw [h.2]; trivial) id
      exact leavesOutside_go hshape (.start _ _ _) (fun k hk => hb k (by omega)) hg
    · obtain ⟨N, hN, hshape⟩ := stores_progOf_data s hinit hcleanup
      exact leavesOutside_go hshape (.start _ _ _) (fun k hk => hb k (by omega)) hg
  rw [htarget]
  exact ⟨hframe.availability, hframe.registers⟩

end Sys2Proof.Machine
end

section
/-! The command words (spec/30_encoding.md R90 to R105): decoding and encoding undo each other, and the mask and match
of R95 decide which command a word is. -/

namespace Sys2Proof

/-! ## The opcode map by command (R95) -/

/-- A command's word is its opcode and three byte fields that name the command in the opcode map; the format's reserved
fields are clear in them exactly when the command is well-formed. -/
theorem encode_fields (i : Instr) : ∃ f1 f2 f3, encode i = packWord i.opcode f1 f2 f3 ∧
    opcodeMap i.opcode f1 f2 f3 = some (i.format, i) ∧ reservedClear i.format f1 f2 f3 = i.wellFormed := by
  cases i <;> exact ⟨_, _, _, rfl, rfl, rfl⟩

/-- The opcode of a command is assigned its format, whatever the operand fields. -/
theorem opcodeMap_opcode (x : Instr) (f1 f2 f3 : Byte) :
    ∃ i, opcodeMap x.opcode f1 f2 f3 = some (x.format, i) := by
  cases x <;> exact ⟨_, rfl⟩

/-- The opcode map lists each command with its own format. -/
theorem format_of_opcodeMap {opc f1 f2 f3 : Byte} {fmt : Format} {i : Instr}
    (h : opcodeMap opc f1 f2 f3 = some (fmt, i)) : i.format = fmt := by
  unfold opcodeMap at h
  split at h <;> cases h <;> rfl

/-- With the reserved fields clear, a command that the opcode map names is well-formed and keeps every field in its
word. -/
theorem wellFormed_encode_of_opcodeMap {opc f1 f2 f3 : Byte} {fmt : Format} {i : Instr}
    (h : opcodeMap opc f1 f2 f3 = some (fmt, i)) (hr : reservedClear fmt f1 f2 f3 = true) :
    i.wellFormed = true ∧ encode i = packWord opc f1 f2 f3 := by
  unfold opcodeMap at h
  split at h <;> cases h <;> simp_all [reservedClear, Instr.wellFormed, encode, Instr.opcode]

/-! ## The decoder -/

/-- A word decodes to a command exactly when its fields name the command in the opcode map and the command's reserved
fields are clear in it. -/
theorem decode_eq_ok_iff {w : CmdWord} {i : Instr} : decode w = .ok i ↔
    opcodeMap (opcField w) (f1Field w) (f2Field w) (f3Field w) = some (i.format, i) ∧
      reservedClear i.format (f1Field w) (f2Field w) (f3Field w) = true := by
  unfold decode
  constructor
  · intro h
    split at h
    next => cases h
    next fmt j hj =>
      split at h <;> cases h
      cases format_of_opcodeMap hj
      exact ⟨hj, ‹_›⟩
  · rintro ⟨hm, hr⟩
    simp [hm, hr]

/-- Settles O1: the decoder reads back the fields the encoder packs, which name the command in the opcode map. -/
theorem decodeOfEncode : Obligations.DecodeOfEncode := by
  intro i hw
  obtain ⟨f1, f2, f3, henc, hmap, hres⟩ := encode_fields i
  rw [decode_eq_ok_iff, henc]
  simp [hmap, hres, hw]

/-- Settles O2: what the opcode map names keeps the word's fields, and a word is its fields packed. -/
theorem encodeOfDecode : Obligations.EncodeOfDecode := by
  intro w i h
  obtain ⟨hmap, hres⟩ := decode_eq_ok_iff.mp h
  obtain ⟨hw, henc⟩ := wellFormed_encode_of_opcodeMap hmap hres
  exact ⟨hw, henc.trans (packWord_fields w)⟩

/-! ## Mask and match (R95) -/

/-- The test of a word by mask and match is a test of its opcode and its reserved fields. -/
theorem and_formatMask_eq_matchWord_iff (w : CmdWord) (x : Instr) : w &&& formatMask x.format = x.matchWord ↔
    opcField w = x.opcode ∧ reservedClear x.format (f1Field w) (f2Field w) (f3Field w) = true := by
  have hFF (b : Byte) : b &&& 0xFF#8 = b := BitVec.and_allOnes
  obtain ⟨a, b, c, d, rfl⟩ : ∃ a b c d, w = packWord a b c d := ⟨_, _, _, _, (packWord_fields w).symm⟩
  rw [matchWord_eq, formatMask_eq]
  cases x.format <;> simp [packWord_and, packWord_inj, reservedClear, flgReservedClear, hFF, and_assoc]

/-- A word decodes to a command with the opcode of `x` exactly when it has that opcode, with the reserved fields of the
opcode's format clear. -/
theorem exists_decode_opcode_iff (w : CmdWord) (x : Instr) : (∃ i, decode w = .ok i ∧ i.opcode = x.opcode) ↔
    opcField w = x.opcode ∧ reservedClear x.format (f1Field w) (f2Field w) (f3Field w) = true := by
  obtain ⟨j, hj⟩ := opcodeMap_opcode x (f1Field w) (f2Field w) (f3Field w)
  constructor
  · rintro ⟨i, hd, ho⟩
    obtain ⟨hmap, hres⟩ := decode_eq_ok_iff.mp hd
    have hopc : opcField w = x.opcode := (Machine.opcode_of_decode hd).symm.trans ho
    have hfmt : i.format = x.format := by
      rw [hopc, hj] at hmap
      exact (congrArg Prod.fst (Option.some.inj hmap)).symm
    exact ⟨hopc, hfmt ▸ hres⟩
  · rintro ⟨hopc, hres⟩
    have hfmt : j.format = x.format := format_of_opcodeMap hj
    have hd : decode w = .ok j := decode_eq_ok_iff.mpr ⟨by rw [hopc, hfmt, hj], by rw [hfmt, hres]⟩
    exact ⟨j, hd, (Machine.opcode_of_decode hd).trans hopc⟩

/-- Settles O3: both sides ask for the command's opcode and for clear reserved fields; the opcodes and masks of the map
are the model's. -/
theorem maskAndMatchDecideTheCommand : Obligations.MaskAndMatchDecideTheCommand :=
  ⟨fun w x => (and_formatMask_eq_matchWord_iff w x).trans (exists_decode_opcode_iff w x).symm, by decide⟩

/-- A word that decodes to a command fits that command's mask and match. -/
theorem and_formatMask_of_decode {w : CmdWord} {i : Instr} (h : decode w = .ok i) :
    w &&& formatMask i.format = i.matchWord :=
  (maskAndMatchDecideTheCommand.1 w i).mpr ⟨i, h, rfl⟩

/-- Settles O4: each word is decoded by its fields. -/
theorem specWordsDecode : Obligations.SpecWordsDecode := by
  unfold Obligations.SpecWordsDecode
  decide

end Sys2Proof
end

section
/-! What the Engine makes of a command word that is no command, and of every command (spec/30_encoding.md R102,
spec/60_exceptions.md R223); the bit codes (spec/43_bit_ops.md R190 to R193) and the pseudo-commands
(spec/30_encoding.md R110, R111). -/

namespace Sys2Proof.Machine

open Sys2Proof

/-! ## Illegal and refused commands (R102, R223) -/

theorem runWord_of_decode_error {w : CmdWord} {e : DecodeError} {s : State} (hd : decode w = .error e) :
    runWord w s = .next (answerIllegal s) := by
  simp only [runWord, hd]

/-- Settles O5: such a word does not decode, and the Engine answers it without running anything. -/
theorem illegalCommandAnswered : Obligations.IllegalCommandAnswered := by
  refine ⟨by decide, fun s w rest ha hp hx hno => ?_⟩
  cases hd : decode w with
  | ok i => exact absurd (and_formatMask_of_decode hd) (hno i)
  | error e =>
    calc step s = handle (.submit w) { s with agenda := rest } := step_of_agenda_cons ha
      _ = runWord w { s with agenda := rest } := acceptWord_of_idle hx hp
      _ = .next (answerIllegal { s with agenda := rest }) := runWord_of_decode_error hd
      _ = _ := by rw [answerIllegal, respond_eq_afterCommand]

/-- Settles O16: a command is the run of its pseudocode, which ends in a next state or in the model fault. -/
theorem noCommandIsRefused : Obligations.NoCommandIsRefused := by
  intro i s r h
  rw [exec_eq_run] at h
  rcases run_cases (progOf i s) s with ⟨_, _, _, -, hr⟩ | ⟨_, -, hr⟩ | ⟨_, -, hr⟩ <;>
    · rw [hr] at h
      cases h

/-! ## Bit codes (R190, R191, R193) -/

/-- The mask of offset o is the o-th power of two. -/
theorem bitMask_toNat {o : Nat} (ho : o < 8) : (bitMask o).toNat = 2 ^ o := by
  have h : 2 ^ o < 256 := Nat.pow_lt_pow_right (n := 8) (by decide) ho
  simpa [bitMask, Nat.one_shiftLeft] using h

theorem dirMask_false (p : Port) (o : Nat) : dirMask false p o = bitMask o := by
  cases p <;> rfl

/-- Settles O51: port and offset by the two ranges of the codes, and the direction mask as `bitMask_toNat` has it. -/
theorem bitCodesResolve : Obligations.BitCodesResolve := by
  refine ⟨fun b => by simp [validBit], fun b hv => ⟨bitOff_lt hv, fun hA => ?_, fun hB => ?_⟩, fun p o ho => ?_⟩
  · simp only [bitPort, bitOff, if_pos hA, and_self]
  · simp only [bitPort, bitOff, if_neg (Nat.not_lt.mpr hB), and_self]
  · rw [dirMask_false, bitMask_toNat ho]

/-! ## Pseudo-commands (R110, R111) -/

/-- With `ZeroMaskFirst` a zero mask skips the command before its checks (R148). -/
theorem zeroMask_of_zeroMaskFirst {s : State} (hz : s.par.zeroMaskFirst = true) (checks : Prog → Prog)
    (skip body : Prog) : zeroMask s 0 checks skip body = skip := by
  simp [zeroMask, hz]

/-- Settles O59: the words are computed; NOP is a SETONES whose zero mask ends it before its checks. -/
theorem pseudoCommands : Obligations.PseudoCommands := by
  refine ⟨by decide, by decide, by decide, fun s i hz hi => ?_⟩
  obtain rfl : i = .setones 0 0 := by simpa [pseudoNop] using hi
  rw [exec_eq_run, progOf, progSetones, zeroMask_of_zeroMaskFirst hz, run_retOk, respond_eq_afterCommand]

end Sys2Proof.Machine
end

section
/-! INIT without ALT and rejected, INIT failing before it touches the Target, what any failed INIT leaves of the
session, and CLEANUP (spec/40_session.md R120 to R131). -/

namespace Sys2Proof.Machine

open Sys2Proof

/-! ## INIT completing without ALT, and INIT rejected (R120, R122) -/

/-- Settles O28: INIT without ALT goes from its BIND to its success path. -/
theorem initOpensBank0Session : Obligations.InitOpensBank0Session := by
  intro sla flg bus a b s ha hb hi halt ho hf hc ha7 hbind
  rw [exec_eq_run, progOf, run_progInit_bound ha hb hi ho hf hc ha7 hbind, flgAlt, halt, if_neg Bool.false_ne_true,
    run_finishInit, boundInit_drawAt]
  simp [State.afterCommand, State.boundInit]

/-- Settles O30: the test of `S.init` ends INIT before its first write and its first operation. -/
theorem initWhileInitialisedRejected : Obligations.InitWhileInitialisedRejected := by
  refine ⟨by decide, fun sla flg bus s hi => ?_⟩
  rw [exec_eq_run, progOf, progInit_of_init sla flg bus hi, run_raise, respond_eq_afterCommand]

/-! ## INIT failing before it touches the Target (R120, R124) -/

/-- The state of INIT after OPEN of bus b has completed `ok`, the handle written. -/
def State.openedInit (s : State) (flg b : Byte) : State :=
  { s with
    session := { s.session with bus := b, pathOwned := flg.getLsbD 2, handleOpen := true }
    log := s.log ++ [.control (.openBus b) .ok] }

@[simp] theorem openedInit_drawAt (s : State) (flg b : Byte) (k : Nat) : (s.openedInit flg b).drawAt k = s.drawAt k :=
  rfl

@[simp] theorem openedInit_par (s : State) (flg b : Byte) : (s.openedInit flg b).par = s.par := rfl

@[simp] theorem openedInit_bus (s : State) (flg b : Byte) : (s.openedInit flg b).session.bus = b := rfl

section BeforeTarget

variable {sla flg bus : Byte} {s : State}

/-- OPEN fails: IO_ERROR, with no handle to close (R120, R124). -/
theorem run_progInit_open_failed (hi : s.session.init = false) (ho : openOK s.par (initBus flg bus) = false) :
    (progInit sla flg bus s).run s =
      .next { s.afterCommand 0 [.control (.openBus (initBus flg bus)) .fail] s.target .ioError 0x00 with
        session := { s.session with bus := initBus flg bus, pathOwned := false } } := by
  simp only [progInit, hi, Bool.false_eq_true, if_false, run_assign]
  rw [run_openBus]
  simp [ho, hi, State.respond, State.afterCommand, State.mapSession, State.record]

/-- OPEN completes: FUNCS and, with both capabilities, BIND follow, and where one of them fails, ABORT (R120). -/
theorem run_progInit_opened (hi : s.session.init = false) (ho : openOK s.par (initBus flg bus) = true) :
    ∃ k kBind : TxResult → Prog,
      k .fail = abortInit .ioError ∧
      (∀ c, c ≠ ⟨true, true⟩ → k (.caps c) = abortInit .capabilityError) ∧
      k (.caps ⟨true, true⟩) = .issue (.bind (initSlave sla flg)) kBind ∧
      kBind .fail = abortInit .ioError ∧
      (progInit sla flg bus s).run s = (Prog.issue .funcs k).run (s.openedInit flg (initBus flg bus)) := by
  simp only [progInit, hi, Bool.false_eq_true, if_false, run_assign]
  rw [run_openBus]
  simp only [State.mapSession_par, ho, if_true, run_assign]
  refine ⟨_, _, rfl, fun c hc => if_neg fun hboth => hc ?_, rfl, rfl, rfl⟩
  obtain ⟨hr, hw⟩ := (Bool.and_eq_true _ _).mp hboth
  cases c
  exact congrArg₂ Caps.mk hr hw

/-- FUNCS fails (R80, R120). -/
theorem run_progInit_funcs_failed (hi : s.session.init = false) (ho : openOK s.par (initBus flg bus) = true)
    (hf : (s.drawAt 0).ctrl = false) :
    (progInit sla flg bus s).run s = (abortInit .ioError).run
      ((s.openedInit flg (initBus flg bus)).advance.record (.control .funcs .fail)) := by
  obtain ⟨k, -, hfail, -, -, -, hrun⟩ := run_progInit_opened (sla := sla) hi ho
  rw [hrun, run_funcs]
  simp only [openedInit_drawAt, hf, Bool.false_eq_true, if_false, hfail]

/-- A capability is missing (R80, R120). -/
theorem run_progInit_capability_missing (hi : s.session.init = false) (ho : openOK s.par (initBus flg bus) = true)
    (hf : (s.drawAt 0).ctrl = true) (hc : capsOf s.par (initBus flg bus) ≠ ⟨true, true⟩) :
    (progInit sla flg bus s).run s = (abortInit .capabilityError).run
      ((s.openedInit flg (initBus flg bus)).advance.record
        (.control .funcs (.caps (capsOf s.par (initBus flg bus))))) := by
  obtain ⟨k, -, -, hcaps, -, -, hrun⟩ := run_progInit_opened (sla := sla) hi ho
  rw [hrun, run_funcs]
  simp only [openedInit_drawAt, openedInit_par, openedInit_bus, hf, if_true, hcaps _ hc]

/-- BIND fails, an address above 0x7F among its failures (R81, R120). -/
theorem run_progInit_bind_failed (hi : s.session.init = false) (ho : openOK s.par (initBus flg bus) = true)
    (hf : (s.drawAt 0).ctrl = true) (hc : capsOf s.par (initBus flg bus) = ⟨true, true⟩)
    (hbind : 0x7F < (initSlave sla flg).toNat ∨ (s.drawAt 1).bind = false) :
    (progInit sla flg bus s).run s = (abortInit .ioError).run
      (((s.openedInit flg (initBus flg bus)).advance.record (.control .funcs (.caps ⟨true, true⟩))).advance.record
        (.control (.bind (initSlave sla flg)) .fail)) := by
  obtain ⟨k, kBind, -, -, hboth, hfail, hrun⟩ := run_progInit_opened (sla := sla) hi ho
  have hbad : (decide ((initSlave sla flg).toNat ≤ 0x7F) && (s.drawAt 1).bind) = false := by
    rcases hbind with ha | hb
    · simp [Nat.not_le.mpr ha]
    · simp [hb]
  rw [hrun, run_funcs]
  simp only [openedInit_drawAt, openedInit_par, openedInit_bus, hf, hc, if_true, hboth]
  rw [run_bind]
  simp only [State.record_drawAt, State.advance_drawAt, openedInit_drawAt, hbad, Bool.false_eq_true, if_false, hfail]

end BeforeTarget

/-- Settles O31: OPEN fails with nothing to close; every later failure is ABORT after the operations before it. -/
theorem initFailsBeforeTarget : Obligations.InitFailsBeforeTarget := by
  intro sla flg bus a b s ha hb hi
  obtain rfl : a = initSlave sla flg := ha
  obtain rfl : b = initBus flg bus := hb
  refine ⟨fun ho => ?_, fun ho hf => ?_, fun ho hf hc => ?_, fun ho hf hc hbind => ?_⟩
  · rw [exec_eq_run, progOf, run_progInit_open_failed hi ho]
  · rw [exec_eq_run, progOf, run_progInit_funcs_failed hi ho hf, run_abortInit]
    simp only [State.record_drawAt, State.advance_drawAt, openedInit_drawAt]
    simp [State.afterCommand, State.openedInit]
  · rw [exec_eq_run, progOf, run_progInit_capability_missing hi ho hf hc, run_abortInit]
    simp only [State.record_drawAt, State.advance_drawAt, openedInit_drawAt]
    simp [State.afterCommand, State.openedInit]
  · rw [exec_eq_run, progOf, run_progInit_bind_failed hi ho hf hc hbind, run_abortInit]
    simp only [State.record_drawAt, State.advance_drawAt, openedInit_drawAt]
    simp [State.afterCommand, State.openedInit]

/-! ## What a failed INIT leaves (R123) -/

/-- `E` holds of the session at the program's end, whatever results its operations have. -/
def Prog.Ends (E : Session → Prop) : Prog → Session → Prop
  | .done _ _, S => E S
  | .assign f k, S => k.Ends E (f S)
  | .hook k, S => ∀ b, k.Ends E { S with hookRegistered := b }
  | .issue _ k, S => ∀ r, (k r).Ends E S

theorem Prog.Ends.go_finished {E : Session → Prop} {p : Prog} {s t : State} {st : Status} {data : Byte}
    (h : p.Ends E s.session) (hg : p.go s = .finished st data t) : E t.session := by
  induction p generalizing s with
  | done st' data' =>
    cases hg
    exact h
  | assign f k ih => exact ih (s := s.mapSession f) h hg
  | hook k ih => exact ih (s := s.tryHook) (h _) hg
  | issue op k ih =>
    simp only [Prog.go] at hg
    split at hg
    next r u ho =>
      have hs : u.session = s.session := (onlyBus_perform (.inl ho)).session
      exact ih r (hs ▸ h r) hg
    next => cases hg
    next => cases hg

/-- A session that is not initialised holds nothing: no handle, no path, no layout. -/
def HoldsNothingUnlessInit (S : Session) : Prop :=
  S.init = false → S.handleOpen = false ∧ S.pathOwned = false ∧ S.layout = .none

theorem ends_abortInit (st : Status) (S : Session) : (abortInit st).Ends HoldsNothingUnlessInit S :=
  fun _ _ => ⟨rfl, rfl, rfl⟩

theorem ends_finishInit (l : Layout) (S : Session) : (finishInit l).Ends HoldsNothingUnlessInit S :=
  fun _ hinit => nomatch hinit

theorem ends_initBank (S : Session) : initBank.Ends HoldsNothingUnlessInit S := by
  intro r
  cases r with
  | byte v =>
    intro r'
    cases r' with
    | ok => exact ends_finishInit .bank1 S
    | byte | caps | fail => exact ends_abortInit .ioError S
  | ok | caps | fail => exact ends_abortInit .ioError S

/-- INIT of a closed session: where OPEN fails nothing has been opened, and each later failure is ABORT. -/
theorem ends_progInit (sla flg bus : Byte) {s : State} (hi : s.session.init = false)
    (hh : s.session.handleOpen = false) (hl : s.session.layout = .none) :
    (progInit sla flg bus s).Ends HoldsNothingUnlessInit s.session := by
  simp only [progInit, hi, Bool.false_eq_true, if_false]
  intro opened
  cases opened with
  | ok =>
    intro funcs
    cases funcs with
    | caps c =>
      dsimp only
      split
      · intro bound
        cases bound with
        | ok =>
          dsimp only [Prog.Ends]
          split
          · exact ends_initBank _
          · exact ends_finishInit .bank0 _
        | byte | caps | fail => exact ends_abortInit .ioError _
      · exact ends_abortInit .capabilityError _
    | ok | byte | fail => exact ends_abortInit .ioError _
  | byte | caps | fail => exact fun _ => ⟨hh, rfl, hl⟩

/-- Settles O32: an INIT that answers has come to its end, where only an initialised session holds anything. -/
theorem failedInitLeaksNothing : Obligations.FailedInitLeaksNothing := by
  intro sla flg bus s t hi hh hl h hidle hinit
  rw [exec_eq_run, progOf] at h
  rcases run_next h with ⟨st, data, u, hg, rfl⟩ | ⟨u, -, rfl⟩
  · have hends : HoldsNothingUnlessInit u.session := (ends_progInit sla flg bus hi hh hl).go_finished hg
    exact hends hinit
  · cases hidle

/-! ## CLEANUP (R131) -/

/-- Settles O33: the three cases of CLEANUP's pseudocode. -/
theorem cleanupEndsSession : Obligations.CleanupEndsSession := by
  refine ⟨by decide, fun s => ⟨fun hi ho => ?_, fun hi ho => ?_, fun hi => ?_⟩⟩
  · simp only [exec_eq_run, progOf, Prog.run, go_progCleanup_of_open hi ho, State.afterCleanup, State.respond,
      State.afterCommand]
  · rw [exec_eq_run, progOf, progCleanup_of_no_handle hi ho, run_assign, endCleanup, run_assign, run_retOk,
      respond_eq_afterCommand]
    rfl
  · rw [exec_eq_run, progOf, progCleanup_of_not_init hi, run_retOk, respond_eq_afterCommand]

end Sys2Proof.Machine
end

section
/-! The commands on a session that is not initialised (spec/60_exceptions.md R215), the zero mask of SETONES and SETZEROS
(spec/41_register_access.md R148), and SETONES followed by SETZEROS on a storage register (R150). -/

namespace Sys2Proof.Machine

open Sys2Proof

/-- A command's record only grows. -/
theorem run_next_log {p : Prog} {s t : State} (h : p.run s = .next t) : ∃ l, t.log = s.log ++ l := by
  rcases run_next h with ⟨st, data, u, hg, rfl⟩ | ⟨u, hg, rfl⟩
  · exact (onlyRun_go p (.inl ⟨st, data, hg⟩)).log
  · exact (onlyRun_go p (.inr hg)).log

/-! ## A command's checks where the session is not initialised (R140, R215) -/

section NotInit

variable {s : State} (hi : s.session.init = false)
include hi

theorem requireInit_of_not_init (k : Prog) : requireInit s k = .raise .notInitialized := by
  simp [requireInit, hi]

theorem run_requireInit_of_not_init (k : Prog) :
    (requireInit s k).run s = .next (s.afterCommand 0 [] s.target .notInitialized 0) := by
  rw [requireInit_of_not_init hi, run_raise, respond_eq_afterCommand]

/-- The read-modify-write of SETONES and SETZEROS with a nonzero mask comes to `requireInit` first (R146, R147). -/
theorem run_regRmw_of_not_init {m : Byte} (hm : m ≠ 0) (a : Byte) (body : Prog) :
    (zeroMask s m (fun k => requireInit s (requireValid s a k)) .retOk body).run s =
      .next (s.afterCommand 0 [] s.target .notInitialized 0) := by
  rw [zeroMask_of_ne_zero hm, run_requireInit_of_not_init hi]

/-- Only a zero mask tested before the checks gets past them (R148, R169). -/
theorem rmw1_of_not_init (r : LogReg) (op : RmwOp) (m : Byte) (k : Status → Prog) :
    rmw1 s r op m k = if s.par.zeroMaskFirst = true ∧ m = 0 then k .ok else .raise .notInitialized := by
  cases hz : s.par.zeroMaskFirst <;> simp [rmw1, zeroMask, hz, requireInit_of_not_init hi]

/-- SETOUT and SETIN get past both ports' checks only where both masks are zero (R170, R171). -/
theorem rmwBothDirs_of_not_init (op : RmwOp) (ma mb : Byte) :
    rmwBothDirs s op ma mb =
      if s.par.zeroMaskFirst = true ∧ ma = 0 ∧ mb = 0 then .retOk else .raise .notInitialized := by
  rw [rmwBothDirs, rmw1_of_not_init hi, rmw1_of_not_init hi, if_pos rfl]
  by_cases ha : s.par.zeroMaskFirst = true ∧ ma = 0
  · simp [ha, Prog.endWith]
  · rw [if_neg ha, if_neg fun ⟨hz, hma, _⟩ => ha ⟨hz, hma⟩]

/-- A direction check says no output (R192). -/
theorem isoutBody_of_not_init (b : Byte) (k : Bool → Prog) : isoutBody b s k = k false := by
  simp [isoutBody, hi]

/-- INIT comes to OPEN before anything else it records (R120). -/
theorem exec_init_log {sla flg bus : Byte} {t : State} (h : exec (.init sla flg bus) s = .next t) :
    ∃ b r rest, t.log = s.log ++ .control (.openBus b) r :: rest := by
  rw [exec_eq_run, progOf] at h
  simp only [progInit, hi, Bool.false_eq_true, if_false, run_assign] at h
  rw [run_openBus] at h
  obtain ⟨rest, hlog⟩ := run_next_log h
  exact ⟨_, _, rest, by simpa using hlog⟩

end NotInit

/-- Settles O34: `requireInit` ends each command that has it; the others answer without it, and INIT opens its bus. -/
theorem notInitializedAnswers : Obligations.NotInitializedAnswers := by
  refine ⟨by decide, fun s hi => ⟨fun i h => ?_, fun i h => ?_, fun bit => ?_, fun hl reg => ?_, ?_, fun _ _ _ _ h =>
    exec_init_log hi h⟩⟩
  · have hinit := run_requireInit_of_not_init hi
    have hdirs (op : RmwOp) {ma mb : Byte} (hm : ma ≠ 0 ∨ mb ≠ 0) : (rmwBothDirs s op ma mb).run s =
        .next (s.afterCommand 0 [] s.target .notInitialized 0) := by
      rw [rmwBothDirs_of_not_init hi, if_neg (fun hz => hm.elim (absurd hz.2.1) (absurd hz.2.2)), run_raise,
        respond_eq_afterCommand]
    rcases h with ⟨reg, rfl⟩ | ⟨reg, rfl⟩ | ⟨reg, val, rfl⟩ | ⟨val, rfl⟩ | ⟨val, rfl⟩ | rfl | rfl | ⟨bit, rfl⟩ |
      ⟨bit, rfl⟩ | ⟨reg, mask, hm, rfl⟩ | ⟨reg, mask, hm, rfl⟩ | ⟨ma, mb, hm, rfl⟩ | ⟨ma, mb, hm, rfl⟩
    exacts [hinit _, hinit _, hinit _, hinit _, hinit _, hinit _, hinit _, hinit _, hinit _,
      run_regRmw_of_not_init hi hm _ _, run_regRmw_of_not_init hi hm _ _, hdirs .andnot hm, hdirs .or hm]
  · have hdirs (op : RmwOp) : (rmwBothDirs s op 0 0).run s =
        .next (s.afterCommand 0 [] s.target (if s.par.zeroMaskFirst then .ok else .notInitialized) 0) := by
      rw [rmwBothDirs_of_not_init hi]
      cases s.par.zeroMaskFirst <;> simp [respond_eq_afterCommand]
    rcases h with rfl | rfl
    · exact hdirs .andnot
    · exact hdirs .or
  · rw [exec_eq_run, progOf, progIsout, isoutBody_of_not_init hi, run_ret, respond_eq_afterCommand]
    rfl
  · rw [valregTestsActiveLayout, hl, if_neg (by simp)]
  · exact (cleanupEndsSession.2 s).2.2 hi

/-! ## The zero mask (R148) -/

theorem zeroMask_of_not_zeroMaskFirst {s : State} (hz : s.par.zeroMaskFirst = false) (checks : Prog → Prog)
    (skip body : Prog) : zeroMask s 0 checks skip body = checks skip := by
  simp [zeroMask, hz]

/-- What SETONES and SETZEROS of address a answer to a zero mask: OK, after the checks where they come first (R148). -/
def State.zeroMaskStatus (s : State) (a : Byte) : Status :=
  if s.par.zeroMaskFirst then .ok else if s.session.init = false then .notInitialized
  else if validAddr s.session.layout a then .ok else .invalidRegister

theorem run_regRmw_zero (s : State) (a : Byte) (body : Prog) :
    (zeroMask s 0 (fun k => requireInit s (requireValid s a k)) .retOk body).run s =
      .next (s.afterCommand 0 [] s.target (s.zeroMaskStatus a) 0) := by
  cases hz : s.par.zeroMaskFirst with
  | true =>
    rw [zeroMask_of_zeroMaskFirst hz, run_retOk, respond_eq_afterCommand, State.zeroMaskStatus, if_pos hz]
  | false =>
    rw [zeroMask_of_not_zeroMaskFirst hz]
    cases hi : s.session.init with
    | false => simp [run_requireInit_of_not_init hi, State.zeroMaskStatus, hz, hi]
    | true =>
      rw [requireInit_of_init hi]
      cases hv : validAddr s.session.layout a <;>
        simp [requireValid, State.zeroMaskStatus, hz, hi, hv, respond_eq_afterCommand]

/-- Settles O36: both commands are the read-modify-write under `zeroMask`, which skips it. -/
theorem zeroMaskSkips : Obligations.ZeroMaskSkips :=
  ⟨rfl, fun reg s => ⟨run_regRmw_zero s reg _, run_regRmw_zero s reg _⟩⟩

/-! ## SETONES then SETZEROS on a storage register (R150) -/

theorem storageOf_of_not_gpio {r : LogReg} (h : ∀ p, r ≠ .gpio p) : storageOf (.data r) = .data r := by
  cases r with
  | iodir p | olat p => rfl
  | gpio p => exact absurd rfl (h p)

/-- A storage register is read without the pins (R63). -/
theorem Target.read_of_storage (t : Target) {q : TargetReg} (hq : storageOf q = q) (pins contention : Byte) :
    t.read q pins contention = t.read q 0 0 := by
  rcases q with (p | p | p) | _
  case data.gpio => cases hq
  all_goals rfl

/-- A storage register reads back what was written (R63, R65). -/
theorem Target.read_write_same (t : Target) {q : TargetReg} (hq : storageOf q = q) (v pins contention : Byte) :
    (t.write q v).read q pins contention = v := by
  rcases q with (p | p | p) | _
  case data.iodir => exact t.setIodir_iodir p v
  case data.gpio => cases hq
  case data.olat => exact t.setOlat_olat p v
  case iocon => rfl

/-- A command that completes with one data register written leaves a session up. -/
theorem SessionUp.afterCommand_write {s : State} (hu : SessionUp s) (n : Nat) (l : List BusEvent) (r : LogReg)
    (v : Byte) (st : Status) (data : Byte) : SessionUp (s.afterCommand n l (s.target.write (.data r) v) st data) := by
  simpa [SessionUp, layoutAgrees, State.targetAnswers, State.addressesTarget, State.afterCommand] using hu

/-- What a command's draws leave of the premises is for the next command. -/
theorem Ready.afterCommand_write {s : State} {n k : Nat} (h : Ready (n + k) s) (l : List BusEvent) (r : LogReg)
    (v : Byte) (st : Status) (data : Byte) : Ready k (s.afterCommand n l (s.target.write (.data r) v) st data) := by
  obtain ⟨hu, ho, hn⟩ := h
  refine ⟨hu.afterCommand_write n l r v st data, fun j hj => ?_, fun j hj => ?_⟩
  · rw [State.afterCommand_drawAt]
    exact ho _ (by omega)
  · rw [State.afterCommand_drawAt]
    exact hn _ (by omega)

theorem Ready.mono {s : State} {n k : Nat} (h : Ready k s) (hle : n ≤ k) : Ready n s :=
  have ⟨hu, ho, hn⟩ := h
  ⟨hu, fun j hj => ho j (by omega), fun j hj => hn j (by omega)⟩

/-- The bits SETONES sets are among those SETZEROS clears. -/
theorem or_and_not_same (v m : Byte) : (v ||| m) &&& ~~~ m = v &&& ~~~ m := by
  rw [BitVec.and_or_distrib_right]
  simp

/-- Settles O42: SETZEROS reads back what SETONES wrote, old OR mask, and writes that AND NOT mask. -/
theorem setonesThenSetzeros : Obligations.SetonesThenSetzeros := by
  intro reg mask r s hready hm hr ha
  have hq := storageOf_of_not_gpio hr
  refine ⟨_, _, setonesSetsBits reg mask _ r s (hready.mono (by omega)) hm ha rfl,
    setzerosClearsBits reg mask _ r _ (Ready.afterCommand_write hready ..) hm ha rfl, ?_⟩
  calc
    _ = s.target.write (.data r) ((s.target.read (.data r) 0 0 ||| mask) &&& ~~~ mask) := by
      simp [State.afterCommand, Target.read_write_same _ hq, Target.read_of_storage _ hq (s.drawAt 0).pins]
    _ = _ := by rw [or_and_not_same]

end Sys2Proof.Machine
end

section
/-! ISOUT after SETOUT and SETIN of every pin (spec/42_direction_port.md R199, spec/43_bit_ops.md R192, R193). -/

namespace Sys2Proof.Machine

open Sys2Proof

theorem exists_addrOf_iodir {s : State} (hl : layoutAgrees s = true) (p : Port) :
    ∃ a, addrOf s.session.layout (.iodir p) = some a := by
  rcases layout_cases hl with ⟨h, -⟩ | ⟨h, -⟩ <;> rw [h] <;> exact ⟨_, rfl⟩

/-- ISOUT whose read completes answers by the direction check (R192). -/
theorem exec_isout_ok {s : State} {bit a : Byte} (h : Ready 1 s) (hv : validBit bit = true)
    (ha : addrOf s.session.layout (.iodir (bitPort bit)) = some a) :
    exec (.isout bit) s = .next (s.afterCommand 1 [readEvent s a (s.target.iodir (bitPort bit))] s.target .ok
      (boolData (testsAsOutput s bit))) := by
  obtain ⟨hu, ho, hn⟩ := h
  rw [exec_eq_run, progOf, progIsout, run_isoutBody_ok hu (ho 0 Nat.one_pos) (hn 0 Nat.one_pos) hv ha, run_ret,
    respond_record_eq_afterCommand]

/-- With every direction bit 0 each pin tests as an output, whatever `IsOutBTypoCompat` is. -/
theorem testsAsOutput_of_iodir_zero {s : State} (h : ∀ p, s.target.iodir p = 0) (bit : Byte) :
    testsAsOutput s bit = true := by
  have hB : s.target.iodirB = 0 := h .b
  simp [testsAsOutput, h, hB]

/-- With every direction bit 1 no pin tests as an output, but for GPB0 and GPB1 under `IsOutBTypoCompat` (R193). -/
theorem testsAsOutput_of_iodir_ones {s : State} {bit : Byte} (h : ∀ p, s.target.iodir p = 0xFF)
    (hv : validBit bit = true) :
    testsAsOutput s bit = decide (s.par.isOutBTypoCompat = true ∧ (bit = 0x09 ∨ bit = 0x0a)) := by
  have hB : s.target.iodirB = 0xFF := h .b
  have hone {o : Nat} (ho : o < 8) : (0xFF : Byte).getLsbD o = true := by
    rw [show (0xFF : Byte) = BitVec.allOnes 8 from rfl, BitVec.getLsbD_allOnes, decide_eq_true ho]
  have hcodes : (bit = 0x09 ∨ bit = 0x0a) ↔ 0x09 ≤ bit.toNat ∧ bit.toNat ≤ 0x0a := by bv_omega
  simp only [testsAsOutput, h, hB, hone (bitOff_lt hv), hone (Nat.succ_pos 7), hcodes]
  cases s.par.isOutBTypoCompat with
  | false => simp
  | true => by_cases h9 : 0x09 ≤ bit.toNat <;> simp [h9]

/-- Both direction registers written: what the command's draws leave of the premises is for the next command. -/
theorem Ready.afterCommand_dirs {s : State} {n k : Nat} (h : Ready (n + k) s) (l : List BusEvent) (x y : Byte)
    (st : Status) (data : Byte) :
    Ready k (s.afterCommand n l { s.target with iodirA := x, iodirB := y } st data) := by
  obtain ⟨hu, ho, hn⟩ := h
  refine ⟨hu, fun j hj => ?_, fun j hj => ?_⟩
  · rw [State.afterCommand_drawAt]
    exact ho _ (by omega)
  · rw [State.afterCommand_drawAt]
    exact hn _ (by omega)

/-- Where the masks 0xFF leave the same value d whatever a direction register held, both registers hold d before ISOUT,
which answers by the direction check in that state. -/
theorem run_rmwBothDirs_then_isout {s : State} {bit d : Byte} {op : RmwOp} (h : Ready 5 s) (hv : validBit bit = true)
    (hd : ∀ v, op.apply v 0xFF = d) :
    ∃ t u, (rmwBothDirs s op 0xFF 0xFF).run s = .next t ∧ exec (.isout bit) t = .next u ∧
      u.responses = s.responses ++ [0x0000, rspWord .ok (boolData (testsAsOutput t bit))] ∧
      t.par = s.par ∧ ∀ p, t.target.iodir p = d := by
  obtain ⟨hu, ho, hn⟩ : Ready 4 s := h.mono (by omega)
  obtain ⟨b, hb⟩ := exists_addrOf_iodir hu.2.1 .b
  obtain ⟨a, ha⟩ := exists_addrOf_iodir hu.2.1 (bitPort bit)
  refine ⟨_, _, run_rmwBothDirs_ok hu hb ho hn, exec_isout_ok (Ready.afterCommand_dirs (n := 4) h ..) hv ha,
    List.append_assoc .., rfl, fun p => ?_⟩
  cases p <;> exact hd _

/-- Settles O57: SETOUT leaves every direction bit 0, SETIN every one 1, and ISOUT answers as the direction check. -/
theorem allOutAllIn : Obligations.AllOutAllIn := by
  intro bit s h hv
  constructor
  · obtain ⟨t, u, hrun, hisout, hresp, -, hdir⟩ :=
      run_rmwBothDirs_then_isout (op := .andnot) (d := 0) h hv fun v => BitVec.and_zero
    exact ⟨t, u, hrun, hisout, by rw [hresp, testsAsOutput_of_iodir_zero hdir]; rfl⟩
  · obtain ⟨t, u, hrun, hisout, hresp, hpar, hdir⟩ :=
      run_rmwBothDirs_then_isout (op := .or) (d := 0xFF) h hv fun v => BitVec.or_allOnes
    refine ⟨t, u, hrun, hisout, ?_⟩
    rw [hresp, testsAsOutput_of_iodir_ones hdir hv, hpar]
    by_cases hc : s.par.isOutBTypoCompat = true ∧ (bit = 0x09 ∨ bit = 0x0a)
    · rw [if_pos hc, decide_eq_true hc]
      rfl
    · rw [if_neg hc, decide_eq_false hc]
      rfl

end Sys2Proof.Machine
end

section
/-! The single-bit commands (spec/43_bit_ops.md R190 to R198): what the direction check answers, ISOUT in each of its
cases with either value of `IsOutBTypoCompat`, SETBIT and CLRBIT where all completes and where the check fails. -/

namespace Sys2Proof.Machine

open Sys2Proof

/-! ## The direction check (R192, R193) -/

/-- A direction bit of 1 is an input, and the answer's Boolean is 0x00. -/
theorem boolData_not (b : Bool) : boolData (!b) = if b then 0x00 else 0x01 := by
  cases b <;> rfl

/-- Without the typo option, or on port A, the check is of the pin's own direction bit. -/
theorem testsAsOutput_of_own_bit {s : State} {bit : Byte}
    (h : s.par.isOutBTypoCompat = false ∨ bit.toNat ≤ 0x08) :
    testsAsOutput s bit = !(s.target.iodir (bitPort bit)).getLsbD (bitOff bit) := by
  have hcond : ¬ (s.par.isOutBTypoCompat && decide (0x09 ≤ bit.toNat)) = true := by
    rcases h with hc | hA
    · simp [hc]
    · simp [show ¬ 0x09 ≤ bit.toNat by omega]
  rw [testsAsOutput, if_neg hcond]

/-- Under the typo option a pin of port B passes as GPB0 or GPB1, or by IODIRB bit 0. -/
theorem testsAsOutput_of_typo_portB {s : State} {bit : Byte} (hc : s.par.isOutBTypoCompat = true)
    (hB : 0x09 ≤ bit.toNat) :
    testsAsOutput s bit = (decide (bit.toNat ≤ 0x0a) || !s.target.iodirB.getLsbD 0) := by
  rw [testsAsOutput, if_pos (by simp [hc, hB])]

/-- An invalid code is no output, and nothing is read. -/
theorem isoutBody_of_invalid {s : State} {b : Byte} (hv : validBit b = false) (k : Bool → Prog) :
    isoutBody b s k = k false := by
  simp [isoutBody, hv]

/-! ## ISOUT -/

/-- Settles O52: ISOUT answers the direction check, which says no where its read does not complete. -/
theorem isoutAnswersDirection : Obligations.IsoutAnswersDirection := by
  refine fun bit a s => ⟨fun h hc hv ha => ?_, fun h => ?_, fun hu hn ho hv ha => ?_⟩
  · rw [exec_isout_ok h hv ha, testsAsOutput_of_own_bit (.inl hc), boolData_not]
  · have hbody : progIsout bit s = .ret 0x00 := by
      rcases h with hi | hv
      · exact isoutBody_of_not_init hi bit _
      · exact isoutBody_of_invalid hv _
    rw [exec_eq_run, progOf, hbody, run_ret, respond_eq_afterCommand]
  · rw [exec_eq_run, progOf, progIsout, run_isoutBody_failed hu ho (hn 0 Nat.one_pos) hv ha, run_ret,
      respond_record_eq_afterCommand]
    rfl

/-- Settles O58: port A by the pin's own bit; port B by R193's comparison. -/
theorem typoOptionTestsBitZero : Obligations.TypoOptionTestsBitZero := by
  intro bit a s h hc hv ha
  rw [exec_isout_ok h hv ha]
  by_cases hA : bit.toNat ≤ 0x08
  · have hport : bitPort bit = .a := if_pos (by omega)
    have hoff : bitOff bit = bit.toNat - 1 := if_pos (by omega)
    rw [testsAsOutput_of_own_bit (.inr hA), boolData_not, if_pos hA, hport, hoff]
    rfl
  · rw [testsAsOutput_of_typo_portB hc (by omega), if_neg hA]
    by_cases h2 : bit.toNat ≤ 0x0a
    · rw [if_pos h2, decide_eq_true h2, Bool.true_or]
      rfl
    · rw [if_neg h2, decide_eq_false h2, Bool.false_or, boolData_not]

/-! ## SETBIT and CLRBIT where all completes (R194, R195, R197) -/

/-- The latch is read and the port written, whose write stores in the latch (R65). -/
theorem run_bitRmw_ok {s : State} {bit aDir aLatch aPort : Byte} {op : RmwOp} (h : Ready 3 s)
    (hv : validBit bit = true) (hout : testsAsOutput s bit = true)
    (hDir : addrOf s.session.layout (.iodir (bitPort bit)) = some aDir)
    (hLatch : addrOf s.session.layout (.olat (bitPort bit)) = some aLatch)
    (hPort : addrOf s.session.layout (.gpio (bitPort bit)) = some aPort) :
    (bitRmw op bit s).run s = .next (s.afterCommand 3
      [readEvent s aDir (s.target.iodir (bitPort bit)), readEvent s aLatch (s.target.olat (bitPort bit)),
        writeEvent s aPort (op.apply (s.target.olat (bitPort bit)) (bitMask (bitOff bit)))]
      (s.target.setOlat (bitPort bit) (op.apply (s.target.olat (bitPort bit)) (bitMask (bitOff bit)))) .ok 0) := by
  obtain ⟨hu, ho, hn⟩ := h
  have hlatch : Reaches (s.advance.record (readEvent s aDir (s.target.iodir (bitPort bit)))) aLatch
      (.data (.olat (bitPort bit))) :=
    (hu.advance_record _).reaches hLatch (by simpa using hn 1 (by omega))
  have hport : Reaches ((s.advance.record (readEvent s aDir (s.target.iodir (bitPort bit)))).advance.record
      (readEvent s aLatch (s.target.olat (bitPort bit)))) aPort (.data (.gpio (bitPort bit))) :=
    ((hu.advance_record _).advance_record _).reaches hPort (by simpa using hn 2 (by omega))
  rw [run_bitRmw_of_output hu (hn 0 (by omega)) (ho 0 (by omega)) hv hout hDir hLatch hPort,
    hlatch.run_readOr_ok (by simpa using ho 1 (by omega)) rfl]
  refine (hport.run_writeAndReturn_ok (by simpa using ho 2 (by omega))).trans ?_
  rw [afterCommand_step, afterCommand_step]
  rfl

/-- Settles O53: the bit's read-modify-write with OR. -/
theorem setbitSetsLatchBit : Obligations.SetbitSetsLatchBit := by
  rintro bit aDir aLatch aPort v p s h hv rfl hout hDir hLatch hPort rfl
  exact run_bitRmw_ok (op := .or) h hv hout hDir hLatch hPort

/-- Settles O54: the bit's read-modify-write with AND NOT. -/
theorem clrbitClearsLatchBit : Obligations.ClrbitClearsLatchBit := by
  rintro bit aDir aLatch aPort v p s h hv rfl hout hDir hLatch hPort rfl
  exact run_bitRmw_ok (op := .andnot) h hv hout hDir hLatch hPort

/-! ## SETBIT and CLRBIT where the direction check says no (R196, R198) -/

/-- Settles O55: in an initialised session both commands raise DIRECTION_ERROR where the direction check says no, which
it does before any read, after one that completes, and after one that fails. -/
theorem directionErrorChangesNothing : Obligations.DirectionErrorChangesNothing := by
  intro bit a i s hi hu hn
  obtain ⟨op, hexec⟩ : ∃ op, exec i s = (bitRmw op bit s).run s := by
    rcases hi with rfl | rfl
    · exact ⟨.or, rfl⟩
    · exact ⟨.andnot, rfl⟩
  have hb := hn 0 Nat.one_pos
  rw [hexec, bitRmw, requireInit_of_init hu.1]
  refine ⟨fun hv => ?_, fun hv ha => ⟨fun ho hout => ?_, fun ho => ?_⟩⟩
  · rw [isoutBody_of_invalid hv, if_neg Bool.false_ne_true, run_raise, respond_eq_afterCommand]
  · rw [run_isoutBody_ok hu (ho 0 Nat.one_pos) hb hv ha, hout, if_neg Bool.false_ne_true, run_raise,
      respond_record_eq_afterCommand]
  · rw [run_isoutBody_failed hu ho hb hv ha, if_neg Bool.false_ne_true, run_raise, respond_record_eq_afterCommand]

end Sys2Proof.Machine
end

section
/-! Engine reset and the waiting Engine (spec/70_reset_and_hazards.md R241). -/

namespace Sys2Proof.Machine

open Sys2Proof

/-- The whole next state of an Engine reset: `S`, the phase and the exit are the Engine's, and all else stays. -/
theorem step_engineReset {s : State} {rest : List Event} (ha : s.agenda = .engineReset :: rest) :
    step s = .next (engineReset { s with agenda := rest }) :=
  step_of_agenda_cons ha

theorem engineMove_of_idle {s : State} (hp : s.phase = .idle) : engineMove s = .next s := by
  simp only [engineMove, hp]

/-- Settles O19: the fields are those of `engineReset`, and an IDLE Engine's own move is to wait. -/
theorem engineResetEvent : Obligations.EngineResetEvent := by
  refine ⟨fun s rest ha => ?_, fun s hp ha => ?_⟩
  · exact ⟨_, step_engineReset ha, rfl, rfl, rfl, rfl, rfl, rfl, rfl, rfl, rfl⟩
  · rw [step_of_agenda_nil ha, engineMove_of_idle hp]

end Sys2Proof.Machine
end
